-- ==== Sys2Proof/Word.lean ====
section
/-! DEFINITION. The widths and the fixed sets of names of the PPFD block: bytes, output words, handler ids,
configuration words, phases, decoder states, byte classes, agents, ports, and what a port can carry. -/

namespace Sys2Proof

/-- An 8-bit unsigned value (00_scope.md R13). -/
abbrev Byte := BitVec 8

/-- The width of `XOUT` and `YOUT`, `OUT_W = 32` (00_scope.md R7, 10_state.md R31). -/
abbrev OutWord := BitVec 32

/-- A handler id, `HID_W = 4` (00_scope.md R7, 10_state.md R29, R30). -/
abbrev HandlerId := BitVec 4

/-- The 16-bit configuration word (30_encoding.md R77). -/
abbrev CfgWord := BitVec 16

/-- `PHASE` (10_state.md R25). The reserved code `2'b11` is never held and is no value here (log entry 11). -/
inductive Phase where
  | config
  | run
  | halt
deriving DecidableEq, Repr

/-- `DST`, the Decoder State (10_state.md R23). -/
inductive DecoderState where
  | searching
  | reading
  | readingEscaped
  | done
deriving DecidableEq, Repr

/-- The class of a byte on the RX port (30_encoding.md R73). -/
inductive ByteClass where
  | start
  | endMark
  | esc
  | data
deriving DecidableEq, Repr

/-- The agents that drive steps (00_scope.md R11). -/
inductive Agent where
  | byteSource
  | configAgent
  | externalHandler (h : HandlerId)
  | block
  | resetSource
  | outputReader
deriving DecidableEq, Repr

/-- The "format" column of opcode_table.json: where an operation is selected. -/
inductive Port where
  | rx
  | cfg
  | dsp
  | internal
  | rst
  | status
deriving DecidableEq, Repr

/-- What is presented to the block at one place of an edge, and out of which an operation is decoded
(30_encoding.md R71, R82): an offered byte, a configuration word, a high `dsp_ready`, the edge itself (for the
internal step), a high `rst`, or a sample of the status outputs. -/
inductive PortWord where
  | rx (b : Byte)
  | cfg (w : CfgWord)
  | dsp
  | internal
  | rst
  | status
deriving DecidableEq, Repr

/-- The part of the state that selects an operation (30_encoding.md R82): the phase, the decoder state, and
whether the frame in progress is addressed to `HID_MOVE`. -/
structure SelectCtx where
  phase   : Phase
  dst     : DecoderState
  builtin : Bool
deriving DecidableEq, Repr

end Sys2Proof
end

