-- ==== Sys2Proof/Config.lean ====
section
/-! DEFINITION. The elaboration parameters (00_scope.md R7), their reference values (R9), their constraints (R8),
and the free values: what the spec calls unspecified, as constants without a body. -/

namespace Sys2Proof

/-- The configuration record of 00_scope.md R7, which no step changes. `HID_W = 4` and `OUT_W = 32` are fixed and
stand in the types `HandlerId` and `OutWord`. `unesc` is `UNESC` as its table: entry `b` is `UNESC(b)`, so every
total function from byte to byte is one table and every table is one such function. -/
structure Config where
  pStart     : Byte
  pEnd       : Byte
  pEsc       : Byte
  unesc      : Vector Byte 256
  bufCap     : Nat
  hidMove    : Nat
  moveFb     : Nat
  moveSigned : Bool
deriving DecidableEq, Repr

/-- The reference configuration `REF` (00_scope.md R7, R9). -/
def Config.ref : Config where
  pStart     := 0x40#8
  pEnd       := 0x41#8
  pEsc       := 0x42#8
  unesc      := Vector.mk ((List.range 256).map (BitVec.ofNat 8)).toArray (by rw [List.size_toArray, List.length_map, List.length_range])
  bufCap     := 64
  hidMove    := 0
  moveFb     := 1
  moveSigned := false

/-- R8 (a): the three markers are pairwise distinct. -/
abbrev Config.MarkersDistinct (c : Config) : Prop :=
  c.pStart ≠ c.pEnd ∧ c.pStart ≠ c.pEsc ∧ c.pEnd ≠ c.pEsc

/-- R8 (b): `1 <= BUF_CAP <= 256`. -/
abbrev Config.CapInRange (c : Config) : Prop := 1 ≤ c.bufCap ∧ c.bufCap ≤ 256

/-- R8 (c): `MOVE_FB` is 1, 2 or 4. -/
abbrev Config.FieldBytesLegal (c : Config) : Prop := c.moveFb = 1 ∨ c.moveFb = 2 ∨ c.moveFb = 4

/-- R8 (d): `HID_MOVE < 16`. -/
abbrev Config.MoveHandlerInRange (c : Config) : Prop := c.hidMove < 16

/-- The constraints of 00_scope.md R8, checked at elaboration. -/
abbrev Config.Legal (c : Config) : Prop :=
  c.MarkersDistinct ∧ c.CapInRange ∧ c.FieldBytesLegal ∧ c.MoveHandlerInRange

/-- Free value: byte `i` of `BUF` after the reset with draw number `n` (70_reset_and_hazards.md R231: "unspecified"). -/
opaque Config.freeBuf : Nat → Nat → Byte

/-- Free value: `dsp_tag` while `dsp_valid = 0` (30_encoding.md R79), at draw number `n`. -/
opaque Config.freeTag : Nat → Byte

/-- Free value: `dsp_hid` while `dsp_valid = 0` (30_encoding.md R79), at draw number `n`. -/
opaque Config.freeHid : Nat → HandlerId

/-- Free value: the wires of `dsp_len` while `dsp_valid = 0` (30_encoding.md R79), at draw number `n`; the port
keeps the low `LW` of them. -/
opaque Config.freeLen : Nat → Byte

/-- Free value: `dsp_rdata` where it is unspecified (30_encoding.md R79, 20_memory.md R51), at draw number `n` and
read address `a`. -/
opaque Config.freeRdata : Nat → Nat → Byte

end Sys2Proof
end

