-- ==== Sys2Proof/Machine/State.lean ====
section
/-! DEFINITION. The state of the block: every element of 10_state.md R20, the configuration record, and the model's own
fields (the agents' coming inputs, what the output reader got, the draw counter); the reasons a step can stop; reset. -/

namespace Sys2Proof.Machine

/-- One entry of the Dispatch Table: `V` and `HID` (10_state.md R29). -/
structure DispatchEntry where
  v   : Bool
  hid : HandlerId
deriving DecidableEq, Repr

/-- A dispatch event (00_scope.md R15): the payload excludes the tag byte. -/
structure DispatchEvent where
  tag     : Byte
  hid     : HandlerId
  payload : List Byte
deriving DecidableEq, Repr

/-- The frame outcomes and anomalies (60_exceptions.md R201). -/
inductive OutcomeCode where
  | dispatched
  | dropUnknownTag
  | dropEmpty
  | dropTrunc
  | dropOvf
  | dupReg
deriving DecidableEq, Repr

/-- What `READ_OUT` returns: `(XOUT, YOUT, PHASE, CFG_ERR)` (42_move_handler.md R184). -/
structure StatusSample where
  xout   : OutWord
  yout   : OutWord
  phase  : Phase
  cfgErr : Bool
deriving DecidableEq, Repr

/-- What the agents present at one rising edge (30_encoding.md R70, R71): `rst`; `rx_valid` with `rx_data` (none is
`rx_valid = 0`); `cfg_valid` with `cfg_word` (none is `cfg_valid = 0`); `dsp_ready`; and whether the output reader
samples just before the edge. -/
structure Edge where
  rst      : Bool
  rx       : Option Byte
  cfg      : Option CfgWord
  dspReady : Bool
  sample   : Bool
deriving DecidableEq, Repr

/-- An edge at which no agent presents anything (`STEP`, 30_encoding.md R84). -/
def Edge.idle : Edge := { rst := false, rx := none, cfg := none, dspReady := false, sample := false }

/-- The state. `config` is 00_scope.md R7; `phase` to `outcomes` are the elements of 10_state.md R20; `edges`, `samples`
and `draws` are the model's own (log entries 3, 12 and 9). `buf` has the 256 cells of the largest `BUF_CAP`, of which those below
`BUF_CAP` exist (log entry 10). -/
structure State where
  config   : Config
  phase    : Phase
  cfgErr   : Bool
  dst      : DecoderState
  buf      : Vector Byte 256
  blen     : Nat
  ovf      : Bool
  dtab     : Vector DispatchEntry 256
  xout     : OutWord
  yout     : OutWord
  trace    : List DispatchEvent
  outcomes : List OutcomeCode
  edges    : List Edge
  samples  : List StatusSample
  draws    : Nat
deriving DecidableEq, Repr

/-- The faults of the block: none. "The block has no trap, no exception and no fault output" (60_exceptions.md R200). -/
inductive Fault where
deriving DecidableEq, Repr

/-- Why the model gives no next state. -/
inductive Refusal where
  /-- Raised by `exec`'s arm of an operation without a meaning; no arm raises it now. Safe. -/
  | notModelled (mnemonic : String)
  /-- Raised by `step` where the configuration record breaks a constraint of 00_scope.md R8 ("A model refuses a
  configuration that breaks one of them"). Safe. -/
  | configRejected
  /-- Raised by the meaning of an operation executed in a state in which the spec says that no such step exists
  (41_dispatch.md R144, 60_exceptions.md R208, R210). `step` never selects an operation there. Safe. -/
  | noSuchStep
deriving DecidableEq, Repr

/-- The table with every `V = 0` and every `HID = 0` (70_reset_and_hazards.md R231). -/
def emptyTable : Vector DispatchEntry 256 := Vector.replicate 256 { v := false, hid := 0#4 }

/-- The block elaborated with `c`, right after reset (70_reset_and_hazards.md R231). `BUF` is unspecified there: every
cell 0 is a DESIGN CHOICE (log entry 7). -/
def State.resetWith (c : Config) : State where
  config   := c
  phase    := .config
  cfgErr   := false
  dst      := .searching
  buf      := Vector.replicate 256 0#8
  blen     := 0
  ovf      := false
  dtab     := emptyTable
  xout     := 0#32
  yout     := 0#32
  trace    := []
  outcomes := []
  edges    := []
  samples  := []
  draws    := 0

/-- The machine right after reset, in the reference configuration `REF` (00_scope.md R9, log entry 1). -/
def State.reset : State := State.resetWith Config.ref

end Sys2Proof.Machine
end

