-- ==== Sys2Proof/Machine/Flags.lean ====
section
/-! DEFINITION. The two flags of the block: `OVF` after an append (40_feed.md R101) and `CFG_ERR` after a registration
(41_dispatch.md R147). -/

namespace Sys2Proof.Machine

/-- `OVF` after `Append` (40_feed.md R101): set when the buffer was full, otherwise as it was. -/
def ovfAfterAppend (s : State) : Bool :=
  if s.blen < s.config.bufCap then s.ovf else true

/-- `CFG_ERR` after `REG` of a tag whose entry's valid bit was `v` (41_dispatch.md R147): set by a duplicate, otherwise
as it was. Only reset clears it (10_state.md R26). -/
def cfgErrAfterReg (s : State) (v : Bool) : Bool := if v then true else s.cfgErr

end Sys2Proof.Machine
end

