-- ==== Sys2Proof/Machine/Operands.lean ====
section
/-! DEFINITION. Operand forms: the escape table, the tag and payload of the decoded frame, the Dispatch Table's entries,
and the field assembly of the MOVE handler. -/

namespace Sys2Proof.Machine

/-- `UNESC(b)` (00_scope.md R7, 40_feed.md R111). -/
def unescape (c : Config) (b : Byte) : Byte := c.unesc[b.toNat]'(b.isLt)

/-- `BUF[0..BLEN)`, the decoded frame (30_encoding.md R76, 20_memory.md R52). -/
def decodedFrame (s : State) : List Byte := s.buf.toList.take s.blen

/-- `BUF[0]`, the Message Type Tag of the decoded frame (30_encoding.md R76). -/
def frameTag (s : State) : Byte := s.buf[0]

/-- `BUF[1..BLEN)`, the payload (00_scope.md R15, 30_encoding.md R76). -/
def framePayload (s : State) : List Byte := (decodedFrame s).drop 1

/-- `DTAB[t]` (10_state.md R29). -/
def entryAt (s : State) (t : Byte) : DispatchEntry := s.dtab[t.toNat]'(t.isLt)

/-- `Lookup(t)` (41_dispatch.md R141); `NOTFOUND` is `none`. -/
def lookup (s : State) (t : Byte) : Option HandlerId :=
  if (entryAt s t).v then some (entryAt s t).hid else none

/-- `DTAB[BUF[0]].HID`, the handler id of the dispatch in progress (30_encoding.md R79). -/
def dispatchHid (s : State) : HandlerId := (entryAt s (frameTag s)).hid

/-- `DTAB[BUF[0]].HID = HID_MOVE` (10_state.md R30, 42_move_handler.md R180). -/
abbrev AddressedToMove (s : State) : Prop := (dispatchHid s).toNat = s.config.hidMove

/-- The value of bytes in little-endian order: the byte at the lower index is the less significant (20_memory.md R53). -/
def leValue : List Byte → Nat
  | [] => 0
  | b :: bs => b.toNat + 256 * leValue bs

/-- `FieldLE(p, o, F)`, `8 * F` bits (30_encoding.md R80). -/
def fieldLE (p : List Byte) (o F : Nat) : BitVec (8 * F) := BitVec.ofNat (8 * F) (leValue ((p.drop o).take F))

/-- `Ext(v)`: sign extension to 32 bits if `MOVE_SIGNED`, zero extension otherwise (30_encoding.md R80). -/
def extendField (signed : Bool) {w : Nat} (v : BitVec w) : OutWord :=
  if signed then v.signExtend 32 else v.setWidth 32

/-- `XField(p)` (30_encoding.md R80). -/
def xField (c : Config) (p : List Byte) : OutWord := extendField c.moveSigned (fieldLE p 0 c.moveFb)

/-- `YField(p)` (30_encoding.md R80). -/
def yField (c : Config) (p : List Byte) : OutWord := extendField c.moveSigned (fieldLE p c.moveFb c.moveFb)

end Sys2Proof.Machine
end

