-- ==== Sys2Proof/Machine/Ops.lean ====
section
/-! DEFINITION. The named operations over the state: the Decode Buffer, the ghost traces, dispatch entry and dispatch
return (the block's analogues of taking an exception and returning from one, 60_exceptions.md R205, R206). -/

namespace Sys2Proof.Machine

/-- The port accepts a byte: `PHASE = RUN` and `DST != DONE` (30_encoding.md R72, with `rst = 0`). -/
abbrev State.Accepts (s : State) : Prop := s.phase = .run ∧ s.dst ≠ .done

/-- A dispatch is in progress (41_dispatch.md R142). -/
abbrev State.InDispatch (s : State) : Prop := s.phase = .run ∧ s.dst = .done

/-- The state `t` where the operation is a step, and no step where it is not (41_dispatch.md R144, 60_exceptions.md R208,
R210; log entry 5). -/
def stepWhere (p : Prop) [Decidable p] (t : State) : Host.Outcome State Fault Refusal :=
  if p then .next t else .refused .noSuchStep

/-- `DST <- d`. -/
def State.withDst (s : State) (d : DecoderState) : State := { s with dst := d }

/-- `Append(v)` (40_feed.md R101). -/
def append (v : Byte) (s : State) : State :=
  { s with
    buf  := if s.blen < s.config.bufCap then s.buf.setIfInBounds s.blen v else s.buf
    blen := if s.blen < s.config.bufCap then s.blen + 1 else s.blen
    ovf  := ovfAfterAppend s }

/-- `ClearBuf()` (40_feed.md R102): the cells keep their bytes. -/
def clearBuf (s : State) : State := { s with blen := 0, ovf := false }

/-- `Ghost(code)` (00_scope.md R14, 10_state.md R32). -/
def ghost (code : OutcomeCode) (s : State) : State := { s with outcomes := s.outcomes ++ [code] }

/-- `Emit(ev)` (00_scope.md R14, 10_state.md R32). -/
def emit (ev : DispatchEvent) (s : State) : State := { s with trace := s.trace ++ [ev] }

/-- The dispatch event of the decoded frame for handler `h` (00_scope.md R15, 41_dispatch.md R140). -/
def frameEvent (s : State) (h : HandlerId) : DispatchEvent :=
  { tag := frameTag s, hid := h, payload := framePayload s }

/-- Dispatch entry (60_exceptions.md R205, the last branch of 41_dispatch.md R140): the event is emitted, the decoded
frame stays in `BUF`, `DST <- DONE`. -/
def dispatchEnter (h : HandlerId) (s : State) : State :=
  (ghost .dispatched (emit (frameEvent s h) s)).withDst .done

/-- Dispatch return (60_exceptions.md R206; the end of `DACK` and of `MOVE_EXEC`): `ClearBuf()`, `DST <- SEARCHING`. -/
def dispatchReturn (s : State) : State := (clearBuf s).withDst .searching

/-- A dropped frame (41_dispatch.md R140): the code is recorded, `ClearBuf()`, `DST <- SEARCHING`. -/
def dropFrame (code : OutcomeCode) (s : State) : State := (clearBuf (ghost code s)).withDst .searching

/-- `FrameCompletion()` (41_dispatch.md R140; the order of the checks: 60_exceptions.md R204). -/
def frameCompletion (s : State) : State :=
  if s.ovf then dropFrame .dropOvf s
  else if s.blen = 0 then dropFrame .dropEmpty s
  else
    match lookup s (frameTag s) with
    | none => dropFrame .dropUnknownTag s
    | some h => dispatchEnter h s

/-- Appending an escaped byte and going back to `READING`: the shared action of 40_feed.md R111 to R114. -/
def appendEscaped (b : Byte) (s : State) : State := (append (unescape s.config b) s).withDst .reading

/-- `DTAB[t] <- e` (41_dispatch.md R147). -/
def setEntry (t : Byte) (e : DispatchEntry) (s : State) : State :=
  { s with dtab := s.dtab.set t.toNat e t.isLt }

/-- The action of `REG t, h` in phase `CONFIG` (41_dispatch.md R147). -/
def register (t : Byte) (h : HandlerId) (s : State) : State :=
  let dup := (entryAt s t).v
  let s' := { s with cfgErr := cfgErrAfterReg s dup }
  if dup then ghost .dupReg s' else setEntry t { v := true, hid := h } s'

/-- The action of `LOCK` in phase `CONFIG` (41_dispatch.md R148). -/
def lockPhase (s : State) : State := { s with phase := if s.cfgErr then .halt else .run }

/-- The write of the output pair, both in one step (42_move_handler.md R180, 20_memory.md R55). -/
def writeOutputs (x y : OutWord) (s : State) : State := { s with xout := x, yout := y }

/-- The write of the built-in MOVE handler: both registers when the payload has both fields, neither when it is
shorter (42_move_handler.md R180, R181, R182). -/
def moveWrite (s : State) : State :=
  if 2 * s.config.moveFb ≤ (framePayload s).length then
    writeOutputs (xField s.config (framePayload s)) (yField s.config (framePayload s)) s
  else s

/-- The unspecified bytes of `BUF` after a reset (70_reset_and_hazards.md R231): free values (log entry 8). -/
def freeBuffer (n : Nat) : Vector Byte 256 :=
  Vector.mk ((List.range 256).map (Config.freeBuf n)).toArray (by rw [List.size_toArray, List.length_map, List.length_range])

/-- The effect of reset on the block (70_reset_and_hazards.md R230, R231, R233): every element takes its reset value, `BUF` a
free one. The parameters are no state of the block, the ghost traces are not stored in it and keep their records
(R233, log entry 6), and the agents' inputs and the reader's samples are the agents' own (log entry 16). -/
def resetBlock (s : State) : State :=
  { s with
    phase := .config, cfgErr := false, dst := .searching, buf := freeBuffer s.draws, blen := 0, ovf := false
    dtab := emptyTable, xout := 0#32, yout := 0#32, draws := s.draws + 1 }

/-- The values of the status outputs (30_encoding.md R81, 42_move_handler.md R184). -/
def statusSample (s : State) : StatusSample :=
  { xout := s.xout, yout := s.yout, phase := s.phase, cfgErr := s.cfgErr }

/-- The output reader gets a sample (42_move_handler.md R184; log entry 12). -/
def recordSample (s : State) : State := { s with samples := s.samples ++ [statusSample s] }

end Sys2Proof.Machine
end

