-- ==== Sys2Proof/Syntax.lean ====
section
/-! DEFINITION. The operations of the block: one constructor per row of spec/opcode_table.json (30_encoding.md R82). -/

namespace Sys2Proof

/-- The operations. A row whose byte is a marker has no operand: the byte is the parameter. `reg` carries `RSV`,
`TAG` and `HID`, `lock` its ignored bits `[13:0]`, `cfgRsv` the low bit of `OP` and its ignored bits `[13:0]`
(30_encoding.md R77, R78), so that no bit of a configuration word is lost. -/
inductive Instr where
  | feedSearchingData (b : Byte)
  | feedSearchingEnd
  | feedSearchingEsc
  | feedSearchingStart
  | feedReadingData (b : Byte)
  | feedReadingEsc
  | feedReadingStart
  | feedReadingEnd
  | feedReadingEscapedData (b : Byte)
  | feedReadingEscapedEnd
  | feedReadingEscapedEsc
  | feedReadingEscapedStart
  | feedNotAccepted (b : Byte)
  | reg (rsv : BitVec 2) (tag : Byte) (hid : HandlerId)
  | lock (ign : BitVec 14)
  | cfgRsv (op0 : BitVec 1) (ign : BitVec 14)
  | dack
  | moveExec
  | reset
  | readOut
deriving DecidableEq, Repr

/-- The "format" of the operation's row in opcode_table.json. -/
def Instr.format : Instr → Port
  | .feedSearchingData _ => .rx
  | .feedSearchingEnd => .rx
  | .feedSearchingEsc => .rx
  | .feedSearchingStart => .rx
  | .feedReadingData _ => .rx
  | .feedReadingEsc => .rx
  | .feedReadingStart => .rx
  | .feedReadingEnd => .rx
  | .feedReadingEscapedData _ => .rx
  | .feedReadingEscapedEnd => .rx
  | .feedReadingEscapedEsc => .rx
  | .feedReadingEscapedStart => .rx
  | .feedNotAccepted _ => .rx
  | .reg _ _ _ => .cfg
  | .lock _ => .cfg
  | .cfgRsv _ _ => .cfg
  | .dack => .dsp
  | .moveExec => .internal
  | .reset => .rst
  | .readOut => .status

/-- The agent that drives the operation (00_scope.md R11). `DACK` is the step of the external handler named by
`dsp_hid`, so it takes the handler id of the dispatch in progress. -/
def Instr.agent (dspHid : HandlerId) : Instr → Agent
  | .feedSearchingData _ => .byteSource
  | .feedSearchingEnd => .byteSource
  | .feedSearchingEsc => .byteSource
  | .feedSearchingStart => .byteSource
  | .feedReadingData _ => .byteSource
  | .feedReadingEsc => .byteSource
  | .feedReadingStart => .byteSource
  | .feedReadingEnd => .byteSource
  | .feedReadingEscapedData _ => .byteSource
  | .feedReadingEscapedEnd => .byteSource
  | .feedReadingEscapedEsc => .byteSource
  | .feedReadingEscapedStart => .byteSource
  | .feedNotAccepted _ => .byteSource
  | .reg _ _ _ => .configAgent
  | .lock _ => .configAgent
  | .cfgRsv _ _ => .configAgent
  | .dack => .externalHandler dspHid
  | .moveExec => .block
  | .reset => .resetSource
  | .readOut => .outputReader

end Sys2Proof
end

