-- ==== Sys2Proof/WellFormed.lean ====
section
/-! DEFINITION. Which operations are well formed under a configuration, and in which context each is the one selected. -/

namespace Sys2Proof

/-- `b` is one of the three markers (30_encoding.md R73). -/
abbrev Config.IsMarker (c : Config) (b : Byte) : Prop := b = c.pStart ∨ b = c.pEnd ∨ b = c.pEsc

/-- `rx_ready` with `rst = 0`, seen from the selecting context (30_encoding.md R72). -/
abbrev SelectCtx.Accepts (x : SelectCtx) : Prop := x.phase = .run ∧ x.dst ≠ .done

/-- A well-formed operation: the byte of a DATA row is no marker (opcode_table.json: "any byte with b not in
P_START, P_END, P_ESC"). Every other operand is bounded by its type. -/
def Instr.wellFormed (c : Config) : Instr → Bool
  | .feedSearchingData b => !decide (c.IsMarker b)
  | .feedSearchingEnd => true
  | .feedSearchingEsc => true
  | .feedSearchingStart => true
  | .feedReadingData b => !decide (c.IsMarker b)
  | .feedReadingEsc => true
  | .feedReadingStart => true
  | .feedReadingEnd => true
  | .feedReadingEscapedData b => !decide (c.IsMarker b)
  | .feedReadingEscapedEnd => true
  | .feedReadingEscapedEsc => true
  | .feedReadingEscapedStart => true
  | .feedNotAccepted _ => true
  | .reg _ _ _ => true
  | .lock _ => true
  | .cfgRsv _ _ => true
  | .dack => true
  | .moveExec => true
  | .reset => true
  | .readOut => true

/-- The context in which each row of the operation map is the one selected (30_encoding.md R82; the "state" and
"phase" columns of opcode_table.json). -/
def Instr.selectedIn (x : SelectCtx) : Instr → Bool
  | .feedSearchingData _ => decide (x.phase = .run ∧ x.dst = .searching)
  | .feedSearchingEnd => decide (x.phase = .run ∧ x.dst = .searching)
  | .feedSearchingEsc => decide (x.phase = .run ∧ x.dst = .searching)
  | .feedSearchingStart => decide (x.phase = .run ∧ x.dst = .searching)
  | .feedReadingData _ => decide (x.phase = .run ∧ x.dst = .reading)
  | .feedReadingEsc => decide (x.phase = .run ∧ x.dst = .reading)
  | .feedReadingStart => decide (x.phase = .run ∧ x.dst = .reading)
  | .feedReadingEnd => decide (x.phase = .run ∧ x.dst = .reading)
  | .feedReadingEscapedData _ => decide (x.phase = .run ∧ x.dst = .readingEscaped)
  | .feedReadingEscapedEnd => decide (x.phase = .run ∧ x.dst = .readingEscaped)
  | .feedReadingEscapedEsc => decide (x.phase = .run ∧ x.dst = .readingEscaped)
  | .feedReadingEscapedStart => decide (x.phase = .run ∧ x.dst = .readingEscaped)
  | .feedNotAccepted _ => decide (x.dst = .done ∨ x.phase ≠ .run)
  | .reg _ _ _ => true
  | .lock _ => true
  | .cfgRsv _ _ => true
  | .dack => decide (x.phase = .run ∧ x.dst = .done ∧ x.builtin = false)
  | .moveExec => decide (x.phase = .run ∧ x.dst = .done ∧ x.builtin = true)
  | .reset => true
  | .readOut => true

end Sys2Proof
end

