-- ==== Sys2Proof/Machine/Feed.lean ====
section
/-! DEFINITION. The meanings of the `FEED` rows (40_feed.md R100 to R116), one definition each. -/

namespace Sys2Proof.Machine

/-- A `FEED` row of decoder state `d` is the one selected, as far as the state decides it (30_encoding.md R82). -/
abbrev FeedRow (s : State) (d : DecoderState) : Prop := s.phase = .run ∧ s.dst = d

/-- 40_feed.md R103: noise is discarded. -/
def execFeedSearchingData (b : Byte) (s : State) : Host.Outcome State Fault Refusal :=
  stepWhere (FeedRow s .searching ∧ ¬ s.config.IsMarker b) s

/-- 40_feed.md R104: a stray end marker is discarded. -/
def execFeedSearchingEnd (s : State) : Host.Outcome State Fault Refusal :=
  stepWhere (FeedRow s .searching) s

/-- 40_feed.md R105: a stray escape marker is discarded. -/
def execFeedSearchingEsc (s : State) : Host.Outcome State Fault Refusal :=
  stepWhere (FeedRow s .searching) s

/-- 40_feed.md R106: a frame begins. -/
def execFeedSearchingStart (s : State) : Host.Outcome State Fault Refusal :=
  stepWhere (FeedRow s .searching) ((clearBuf s).withDst .reading)

/-- 40_feed.md R107: the byte is appended verbatim. -/
def execFeedReadingData (b : Byte) (s : State) : Host.Outcome State Fault Refusal :=
  stepWhere (FeedRow s .reading ∧ ¬ s.config.IsMarker b) (append b s)

/-- 40_feed.md R108: the next byte will be literal. -/
def execFeedReadingEsc (s : State) : Host.Outcome State Fault Refusal :=
  stepWhere (FeedRow s .reading) (s.withDst .readingEscaped)

/-- 40_feed.md R109: the partial frame is discarded and a new frame begins. -/
def execFeedReadingStart (s : State) : Host.Outcome State Fault Refusal :=
  stepWhere (FeedRow s .reading) (clearBuf (ghost .dropTrunc s))

/-- 40_feed.md R110: the frame is complete. -/
def execFeedReadingEnd (s : State) : Host.Outcome State Fault Refusal :=
  stepWhere (FeedRow s .reading) (frameCompletion s)

/-- 40_feed.md R111: an escaped byte is appended un-escaped. -/
def execFeedReadingEscapedData (b : Byte) (s : State) : Host.Outcome State Fault Refusal :=
  stepWhere (FeedRow s .readingEscaped ∧ ¬ s.config.IsMarker b) (appendEscaped b s)

/-- 40_feed.md R112: an escaped end marker is a literal byte. -/
def execFeedReadingEscapedEnd (s : State) : Host.Outcome State Fault Refusal :=
  stepWhere (FeedRow s .readingEscaped) (appendEscaped s.config.pEnd s)

/-- 40_feed.md R113: an escaped escape marker is a literal byte. -/
def execFeedReadingEscapedEsc (s : State) : Host.Outcome State Fault Refusal :=
  stepWhere (FeedRow s .readingEscaped) (appendEscaped s.config.pEsc s)

/-- 40_feed.md R114: an escaped start marker is a literal byte. -/
def execFeedReadingEscapedStart (s : State) : Host.Outcome State Fault Refusal :=
  stepWhere (FeedRow s .readingEscaped) (appendEscaped s.config.pStart s)

/-- 40_feed.md R115, R116: the byte is offered and not transferred; nothing changes. -/
def execFeedNotAccepted (_b : Byte) (s : State) : Host.Outcome State Fault Refusal :=
  stepWhere (s.dst = .done ∨ s.phase ≠ .run) s

end Sys2Proof.Machine
end

