-- ==== Sys2Proof/Machine/Handler.lean ====
section
/-! DEFINITION. The two ways a handler finishes a dispatch: `DACK` of an external handler (41_dispatch.md R143) and
`MOVE_EXEC` of the built-in one (42_move_handler.md R180). -/

namespace Sys2Proof.Machine

/-- 41_dispatch.md R143, R144. -/
def execDack (s : State) : Host.Outcome State Fault Refusal :=
  stepWhere (s.InDispatch ∧ ¬ AddressedToMove s) (dispatchReturn s)

/-- 42_move_handler.md R180, R181, R182. -/
def execMoveExec (s : State) : Host.Outcome State Fault Refusal :=
  stepWhere (s.InDispatch ∧ AddressedToMove s) (dispatchReturn (moveWrite s))

end Sys2Proof.Machine
end

