-- ==== Sys2Proof/Machine/Registration.lean ====
section
/-! DEFINITION. The meanings of the configuration words (41_dispatch.md R147, R148, R150). -/

namespace Sys2Proof.Machine

/-- 41_dispatch.md R147, with `RSV` ignored (30_encoding.md R78). -/
def execReg (_rsv : BitVec 2) (tag : Byte) (hid : HandlerId) (s : State) : Host.Outcome State Fault Refusal :=
  .next (if s.phase = .config then register tag hid s else s)

/-- 41_dispatch.md R148. -/
def execLock (_ign : BitVec 14) (s : State) : Host.Outcome State Fault Refusal :=
  .next (if s.phase = .config then lockPhase s else s)

/-- 41_dispatch.md R150: no effect in any phase. -/
def execCfgRsv (_op0 : BitVec 1) (_ign : BitVec 14) (s : State) : Host.Outcome State Fault Refusal :=
  .next s

end Sys2Proof.Machine
end

