-- ==== Sys2Proof/Machine/System.lean ====
section
/-! DEFINITION. The meanings of `RESET` (70_reset_and_hazards.md R230, R231, R233) and `READ_OUT` (42_move_handler.md R184). -/

namespace Sys2Proof.Machine

/-- 70_reset_and_hazards.md R230. -/
def execReset (s : State) : Host.Outcome State Fault Refusal := .next (resetBlock s)

/-- 42_move_handler.md R184: the reader gets the sample; no state of the block changes. -/
def execReadOut (s : State) : Host.Outcome State Fault Refusal := .next (recordSample s)

end Sys2Proof.Machine
end

