-- ==== Sys2Proof/Machine/Dispatch.lean ====
section
/-! DEFINITION. One arm per operation. -/

namespace Sys2Proof.Machine

def exec (i : Instr) (s : State) : Host.Outcome State Fault Refusal :=
  match i with
  | .feedSearchingData b => Sys2Proof.Machine.execFeedSearchingData b s
  | .feedSearchingEnd => Sys2Proof.Machine.execFeedSearchingEnd s
  | .feedSearchingEsc => Sys2Proof.Machine.execFeedSearchingEsc s
  | .feedSearchingStart => Sys2Proof.Machine.execFeedSearchingStart s
  | .feedReadingData b => Sys2Proof.Machine.execFeedReadingData b s
  | .feedReadingEsc => Sys2Proof.Machine.execFeedReadingEsc s
  | .feedReadingStart => Sys2Proof.Machine.execFeedReadingStart s
  | .feedReadingEnd => Sys2Proof.Machine.execFeedReadingEnd s
  | .feedReadingEscapedData b => Sys2Proof.Machine.execFeedReadingEscapedData b s
  | .feedReadingEscapedEnd => Sys2Proof.Machine.execFeedReadingEscapedEnd s
  | .feedReadingEscapedEsc => Sys2Proof.Machine.execFeedReadingEscapedEsc s
  | .feedReadingEscapedStart => Sys2Proof.Machine.execFeedReadingEscapedStart s
  | .feedNotAccepted b => Sys2Proof.Machine.execFeedNotAccepted b s
  | .reg rsv tag hid => Sys2Proof.Machine.execReg rsv tag hid s
  | .lock ign => Sys2Proof.Machine.execLock ign s
  | .cfgRsv op0 ign => Sys2Proof.Machine.execCfgRsv op0 ign s
  | .dack => Sys2Proof.Machine.execDack s
  | .moveExec => Sys2Proof.Machine.execMoveExec s
  | .reset => Sys2Proof.Machine.execReset s
  | .readOut => Sys2Proof.Machine.execReadOut s

end Sys2Proof.Machine
end

