-- ==== Sys2Proof/Decode.lean ====
section
/-! DEFINITION. Decoding what a port carries into an operation, total and rejecting by name (30_encoding.md R71,
R73, R77, R78, R82), and the encoder written from the same tables. -/

namespace Sys2Proof

/-- Why nothing is decoded. None of these is an error of the block: no RX byte and no configuration word is illegal
(30_encoding.md R78, R83). -/
inductive DecodeReject where
  /-- A byte string that is neither one RX byte nor one 16-bit configuration word. -/
  | wordLength (bytes : Nat)
  /-- `dsp_ready` has no effect in this state (41_dispatch.md R144). -/
  | dspReadyIgnored
  /-- No `MOVE_EXEC` in this state (42_move_handler.md R180). -/
  | noInternalStep
deriving DecidableEq, Repr

/-- `class(b)` (30_encoding.md R73). -/
def classOf (c : Config) (b : Byte) : ByteClass :=
  if b = c.pStart then .start
  else if b = c.pEnd then .endMark
  else if b = c.pEsc then .esc
  else .data

/-- Bits `[15:14]` of the configuration word, `OP` (30_encoding.md R77). -/
def cfgOp (w : CfgWord) : BitVec 2 := w.extractLsb' 14 2

/-- Bits `[13:12]`, `RSV` (30_encoding.md R77). -/
def cfgRsvField (w : CfgWord) : BitVec 2 := w.extractLsb' 12 2

/-- Bits `[11:4]`, `TAG` (30_encoding.md R77). -/
def cfgTag (w : CfgWord) : Byte := w.extractLsb' 4 8

/-- Bits `[3:0]`, `HID` (30_encoding.md R77). -/
def cfgHid (w : CfgWord) : HandlerId := w.extractLsb' 0 4

/-- Bits `[13:0]`, ignored by `LOCK` and `CFG_RSV` (30_encoding.md R78). -/
def cfgIgn (w : CfgWord) : BitVec 14 := w.extractLsb' 0 14

/-- The row of a byte accepted in `SEARCHING`, by its class (30_encoding.md R82, 40_feed.md R103 to R106). -/
def searchingRow (b : Byte) : ByteClass → Instr
  | .data => .feedSearchingData b
  | .endMark => .feedSearchingEnd
  | .esc => .feedSearchingEsc
  | .start => .feedSearchingStart

/-- The row of a byte accepted in `READING`, by its class (40_feed.md R107 to R110). -/
def readingRow (b : Byte) : ByteClass → Instr
  | .data => .feedReadingData b
  | .endMark => .feedReadingEnd
  | .esc => .feedReadingEsc
  | .start => .feedReadingStart

/-- The row of a byte accepted in `READING_ESCAPED`, by its class (40_feed.md R111 to R114). -/
def escapedRow (b : Byte) : ByteClass → Instr
  | .data => .feedReadingEscapedData b
  | .endMark => .feedReadingEscapedEnd
  | .esc => .feedReadingEscapedEsc
  | .start => .feedReadingEscapedStart

/-- The row for an offered byte: the pair (`DST`, class) where the port accepts (40_feed.md R100), the row
`FEED.NOT_ACCEPTED` where it does not (R115, R116). -/
def decodeRx (c : Config) (x : SelectCtx) (b : Byte) : Instr :=
  if x.phase = .run then
    match x.dst with
    | .searching => searchingRow b (classOf c b)
    | .reading => readingRow b (classOf c b)
    | .readingEscaped => escapedRow b (classOf c b)
    | .done => .feedNotAccepted b
  else .feedNotAccepted b

/-- The row for a configuration word, by `OP` (30_encoding.md R77, R82). -/
def decodeCfg (w : CfgWord) : Instr :=
  if cfgOp w = 0b00#2 then .reg (cfgRsvField w) (cfgTag w) (cfgHid w)
  else if cfgOp w = 0b01#2 then .lock (cfgIgn w)
  else .cfgRsv (w.extractLsb' 14 1) (cfgIgn w)

/-- What a port word selects in a context (30_encoding.md R82). -/
def decode (c : Config) (x : SelectCtx) : PortWord → Except DecodeReject Instr
  | .rx b => .ok (decodeRx c x b)
  | .cfg w => .ok (decodeCfg w)
  | .dsp =>
    if x.phase = .run ∧ x.dst = .done ∧ x.builtin = false then .ok .dack else .error .dspReadyIgnored
  | .internal =>
    if x.phase = .run ∧ x.dst = .done ∧ x.builtin = true then .ok .moveExec else .error .noInternalStep
  | .rst => .ok .reset
  | .status => .ok .readOut

/-- The port word that a byte string stands for: one byte is an RX byte, two bytes are a configuration word whose
bits `[7:0]` are the first byte (log entry 14). -/
def portWordOfBytes : List Byte → Except DecodeReject PortWord
  | [b] => .ok (.rx b)
  | [lo, hi] => .ok (.cfg (hi ++ lo))
  | bs => .error (.wordLength bs.length)

/-- Decoding a byte string, total. -/
def decodeBytes (c : Config) (x : SelectCtx) (bs : List Byte) : Except DecodeReject Instr :=
  match portWordOfBytes bs with
  | .ok w => decode c x w
  | .error r => .error r

/-- The encoder: the port word of each operation (30_encoding.md R77, R82, R84, opcode_table.json). -/
def encode (c : Config) : Instr → PortWord
  | .feedSearchingData b => .rx b
  | .feedSearchingEnd => .rx c.pEnd
  | .feedSearchingEsc => .rx c.pEsc
  | .feedSearchingStart => .rx c.pStart
  | .feedReadingData b => .rx b
  | .feedReadingEsc => .rx c.pEsc
  | .feedReadingStart => .rx c.pStart
  | .feedReadingEnd => .rx c.pEnd
  | .feedReadingEscapedData b => .rx b
  | .feedReadingEscapedEnd => .rx c.pEnd
  | .feedReadingEscapedEsc => .rx c.pEsc
  | .feedReadingEscapedStart => .rx c.pStart
  | .feedNotAccepted b => .rx b
  | .reg rsv tag hid => .cfg (0b00#2 ++ rsv ++ tag ++ hid)
  | .lock ign => .cfg (0b01#2 ++ ign)
  | .cfgRsv op0 ign => .cfg (0b1#1 ++ op0 ++ ign)
  | .dack => .dsp
  | .moveExec => .internal
  | .reset => .rst
  | .readOut => .status

/-- The port of a port word. -/
def PortWord.port : PortWord → Port
  | .rx _ => .rx
  | .cfg _ => .cfg
  | .dsp => .dsp
  | .internal => .internal
  | .rst => .rst
  | .status => .status

/-- The reference context in which a bare RX byte is decoded by `decodeTableWord`: the state in which the block
accepts its first byte, after `LOCK` (log entry 13). -/
def tableCtx : SelectCtx := { phase := .run, dst := .searching, builtin := false }

/-- The port word that `nbits` bits of the opcode table stand for: an RX row has 8 bits, a CFG row 16; no other row
has bits. -/
def tablePortWord (nbits w : Nat) : Option PortWord :=
  if nbits = 8 then some (.rx (BitVec.ofNat 8 w))
  else if nbits = 16 then some (.cfg (BitVec.ofNat 16 w))
  else none

/-- The operation read from a word of the opcode table, under `REF` and in `tableCtx`. Which of the rows that share a
byte is meant depends on `DST` (30_encoding.md R82), which the word does not hold (log entry 13). -/
def decodeTableWord (nbits w : Nat) : Option Instr :=
  match tablePortWord nbits w with
  | some p =>
    match decode Config.ref tableCtx p with
    | .ok i => some i
    | .error _ => none
  | none => none

end Sys2Proof
end

