-- ==== Sys2Proof/Machine/Select.lean ====
section
/-! DEFINITION. What one rising edge selects: the context read from the state, the port words the agents present, and the
operations decoded from them (30_encoding.md R71, R82, 60_exceptions.md R203). -/

namespace Sys2Proof.Machine

/-- The part of the state that selects operations (30_encoding.md R82). -/
def selectCtx (s : State) : SelectCtx :=
  { phase := s.phase, dst := s.dst, builtin := decide (AddressedToMove s) }

/-- The inputs at the next edge; agents that present nothing leave an idle edge (log entry 3). -/
def nextEdge (s : State) : Edge :=
  match s.edges with
  | [] => Edge.idle
  | e :: _ => e

/-- The next edge's inputs are used up, and the free values of the next edge are new ones. -/
def takeEdge (s : State) : State := { s with edges := s.edges.tail, draws := s.draws + 1 }

/-- The port words of an edge, in the order in which their operations run: the reader's sample (it sees the values from
before the edge, 42_move_handler.md R184); then `RESET` alone if `rst = 1` (60_exceptions.md R203 (1)); otherwise the RX
byte, `dsp_ready`, the internal step and the configuration word (log entry 4). -/
def edgeWords (e : Edge) : List PortWord :=
  (if e.sample then [.status] else []) ++
  (if e.rst then [.rst]
   else
    (match e.rx with
      | some b => [.rx b]
      | none => []) ++
    (if e.dspReady then [.dsp] else []) ++
    [.internal] ++
    (match e.cfg with
      | some w => [.cfg w]
      | none => []))

/-- The operation a port word selects, if it selects one. -/
def decodeOp (c : Config) (x : SelectCtx) (w : PortWord) : Option Instr :=
  match decode c x w with
  | .ok i => some i
  | .error _ => none

/-- The operations of an edge, each decoded in the state before the edge (30_encoding.md R71: "high just before that
edge"). -/
def edgeOps (s : State) (e : Edge) : List Instr :=
  (edgeWords e).filterMap (decodeOp s.config (selectCtx s))

/-- The edge that presents one port word and nothing else. -/
def edgeOfWord : PortWord → Edge
  | .rx b => { Edge.idle with rx := some b }
  | .cfg w => { Edge.idle with cfg := some w }
  | .dsp => { Edge.idle with dspReady := true }
  | .internal => Edge.idle
  | .rst => { Edge.idle with rst := true }
  | .status => { Edge.idle with sample := true }

/-- `w` stands at the place of the next edge, as its only port word. -/
def presentWord (w : PortWord) (s : State) : State := { s with edges := edgeOfWord w :: s.edges }

/-- The state in which a bare RX byte of the opcode table is accepted and decoded as in `tableCtx`: `PHASE = RUN`,
`DST = SEARCHING` with its empty buffer (10_state.md R33 (I3); log entry 13). -/
def openRx (s : State) : State := { s with phase := .run, dst := .searching, blen := 0, ovf := false }

end Sys2Proof.Machine
end

