-- ==== Sys2Proof/Machine/Sequence.lean ====
section
/-! DEFINITION. Running operations one after the other: the operations of one edge, the bytes of a stream and
what of it waits, and a stream whose dispatches are finished by their handlers. -/

namespace Sys2Proof.Machine

/-- Go on from a next state; a stop stays. -/
def andThen {α β : Type} (o : Host.Outcome α Fault Refusal) (f : α → Host.Outcome β Fault Refusal) :
    Host.Outcome β Fault Refusal :=
  match o with
  | .next t => f t
  | .fault r => .fault r
  | .refused r => .refused r

/-- The operations in order. Of one edge at most one changes the block (60_exceptions.md R203). -/
def execAll : List Instr → State → Host.Outcome State Fault Refusal
  | [], s => .next s
  | i :: is, s => andThen (exec i s) (execAll is)

/-- The byte source offers `b`: the row the block selects for it runs (40_feed.md R100). -/
def feedByte (b : Byte) (s : State) : Host.Outcome State Fault Refusal :=
  exec (decodeRx s.config (selectCtx s) b) s

/-- A block, and the bytes that wait with the byte source: an offered byte that is not transferred "stays with the byte
source" (40_feed.md R115, 30_encoding.md R71). -/
structure Fed where
  block   : State
  waiting : List Byte
deriving DecidableEq, Repr

/-- Nothing waits. -/
def consumed (s : State) : Host.Outcome Fed Fault Refusal := .next { block := s, waiting := [] }

/-- The bytes of a sequence, offered one after the other, with no other agent acting (40_feed.md R122). From a byte on that
is offered while the port is closed they wait (R115, R116). -/
def feedAll : List Byte → State → Host.Outcome Fed Fault Refusal
  | [], s => consumed s
  | b :: bs, s =>
    if s.Accepts then andThen (feedByte b s) (feedAll bs)
    else .next { block := s, waiting := b :: bs }

/-- The handler of the dispatch in progress finishes it; without a dispatch nothing happens (41_dispatch.md R142). -/
def finishDispatch (s : State) : Host.Outcome State Fault Refusal :=
  if s.InDispatch then
    if AddressedToMove s then exec .moveExec s else exec .dack s
  else .next s

/-- The bytes of a sequence "with every dispatch it causes acknowledged" (40_feed.md R119), the one in progress at the start
too: a byte offered during a dispatch waits for its end and is fed then (R115, R122). In `CONFIG` and `HALT` the bytes
wait (R116). -/
def deliverAll : List Byte → State → Host.Outcome Fed Fault Refusal
  | [], s => andThen (finishDispatch s) consumed
  | b :: bs, s => andThen (finishDispatch s) fun t =>
    if t.Accepts then andThen (feedByte b t) (deliverAll bs)
    else .next { block := t, waiting := b :: bs }

/-- Configuration words, one after the other. -/
def configureAll : List CfgWord → State → Host.Outcome State Fault Refusal
  | [], s => .next s
  | w :: ws, s => andThen (exec (decodeCfg w) s) (configureAll ws)

end Sys2Proof.Machine
end

