-- ==== Sys2Proof/Machine/Step.lean ====
section
/-! DEFINITION. One step of the machine: one rising edge (30_encoding.md R71, 60_exceptions.md R203). -/

namespace Sys2Proof.Machine

/-- One rising edge: the agents' inputs are taken and the operations they select run. A configuration that breaks
00_scope.md R8 is refused (log entry 2). -/
def step (s : State) : Host.Outcome State Fault Refusal :=
  if s.config.Legal then execAll (edgeOps s (nextEdge s)) (takeEdge s)
  else .refused .configRejected

/-- `s` with the word of the opcode table at the place where `step` takes its next inputs: an 8-bit word on the RX port of
a block that accepts bytes and searches for a frame, a 16-bit word on the CFG port (log entry 13). -/
def State.withFetchWord (s : State) (nbits w : Nat) : State :=
  match tablePortWord nbits w with
  | some (.rx b) => presentWord (.rx b) (openRx s)
  | some p => presentWord p s
  | none => s

end Sys2Proof.Machine
end

