-- ==== Sys2Proof/Machine/Ports.lean ====
section
/-! DEFINITION. The outputs of the block as functions of the state and of the current inputs `rst` and `dsp_raddr`
(30_encoding.md R70, R72, R79, R81), the codes and widths seen on them, and the derived widths (00_scope.md R7). -/

namespace Sys2Proof.Machine

/-- `ceil(log2(n))` for `n >= 1`. -/
def ceilLog2 (n : Nat) : Nat := if n ≤ 1 then 0 else Nat.log2 (n - 1) + 1

/-- `BW`, the width of `BLEN` (00_scope.md R7). -/
def blenWidth (c : Config) : Nat := ceilLog2 (c.bufCap + 1)

/-- `LW`, the width of `dsp_len` and `dsp_raddr` (00_scope.md R7). -/
def lenWidth (c : Config) : Nat := max 1 (ceilLog2 c.bufCap)

/-- The code of `PHASE` on the `phase` port (10_state.md R25). -/
def phaseCode : Phase → BitVec 2
  | .config => 0b00#2
  | .run => 0b01#2
  | .halt => 0b10#2

/-- The code of `DST`, which no port shows (10_state.md R23). -/
def decoderStateCode : DecoderState → BitVec 2
  | .searching => 0b00#2
  | .reading => 0b01#2
  | .readingEscaped => 0b10#2
  | .done => 0b11#2

/-- The number of an outcome code (60_exceptions.md R201). -/
def outcomeNumber : OutcomeCode → Nat
  | .dispatched => 0
  | .dropUnknownTag => 1
  | .dropEmpty => 2
  | .dropTrunc => 3
  | .dropOvf => 4
  | .dupReg => 5

/-- The output ports (30_encoding.md R70). `dspLen` is a number below `2^LW`. -/
structure PortOutputs where
  rxReady  : Bool
  dspValid : Bool
  dspTag   : Byte
  dspHid   : HandlerId
  dspLen   : Nat
  dspRdata : Byte
  xout     : OutWord
  yout     : OutWord
  phase    : BitVec 2
  cfgErr   : Bool
deriving DecidableEq, Repr

/-- `rx_ready` (30_encoding.md R72). -/
def rxReady (s : State) (rst : Bool) : Bool := decide (rst = false ∧ s.Accepts)

/-- `dsp_valid` (30_encoding.md R79). -/
def dspValid (s : State) (rst : Bool) : Bool := decide (s.dst = .done ∧ rst = false)

/-- `dsp_tag` (30_encoding.md R79), free while `dsp_valid = 0`. -/
def dspTag (s : State) (rst : Bool) : Byte :=
  if dspValid s rst then frameTag s else Config.freeTag s.draws

/-- `dsp_hid` (30_encoding.md R79), free while `dsp_valid = 0`. -/
def dspHid (s : State) (rst : Bool) : HandlerId :=
  if dspValid s rst then dispatchHid s else Config.freeHid s.draws

/-- `dsp_len` (30_encoding.md R79), free while `dsp_valid = 0`. -/
def dspLen (s : State) (rst : Bool) : Nat :=
  if dspValid s rst then s.blen - 1 else (Config.freeLen s.draws).toNat % 2 ^ lenWidth s.config

/-- The read address: the port has `LW` wires (20_memory.md R51, log entry 15). -/
def readAddress (c : Config) (raddr : Byte) : Nat := raddr.toNat % 2 ^ lenWidth c

/-- `dsp_rdata` (20_memory.md R51, the formula of 30_encoding.md R79): payload byte `dsp_raddr` while `DST = DONE`,
whatever `rst` is (log entry 17), and a free value out of range and outside `DONE` (log entry 9). -/
def dspRdata (s : State) (raddr : Byte) : Byte :=
  if s.dst = .done then
    match (framePayload s)[readAddress s.config raddr]? with
    | some b => b
    | none => Config.freeRdata s.draws (readAddress s.config raddr)
  else Config.freeRdata s.draws (readAddress s.config raddr)

/-- Every output port, for the inputs `rst` and `dsp_raddr` (30_encoding.md R70, R81). -/
def portOutputs (s : State) (rst : Bool) (raddr : Byte) : PortOutputs :=
  { rxReady  := rxReady s rst
    dspValid := dspValid s rst
    dspTag   := dspTag s rst
    dspHid   := dspHid s rst
    dspLen   := dspLen s rst
    dspRdata := dspRdata s raddr
    xout     := s.xout
    yout     := s.yout
    phase    := phaseCode s.phase
    cfgErr   := s.cfgErr }

end Sys2Proof.Machine
end

