-- ==== Sys2Proof/Machine/WireFrame.lean ====
section
/-! DEFINITION. The frame format on the wire (30_encoding.md R75) and the reference encoder of the host side
(40_feed.md R118), which no operation of the block uses. -/

namespace Sys2Proof.Machine

/-- One `Item` of the frame grammar (30_encoding.md R75): a DATA byte, or an escape marker followed by any byte. -/
inductive WireItem where
  | plain (b : Byte)
  | escaped (b : Byte)
deriving DecidableEq, Repr

/-- The wire bytes of an item. -/
def itemBytes (c : Config) : WireItem → List Byte
  | .plain b => [b]
  | .escaped b => [c.pEsc, b]

/-- The byte an item decodes to (30_encoding.md R75). -/
def itemValue (c : Config) : WireItem → Byte
  | .plain b => b
  | .escaped b => unescape c b

/-- A plain item's byte is of class DATA. -/
def itemLegal (c : Config) : WireItem → Bool
  | .plain b => decide (¬ c.IsMarker b)
  | .escaped _ => true

/-- The wire bytes of a sequence of items. -/
def itemsBytes (c : Config) (items : List WireItem) : List Byte := items.flatMap (itemBytes c)

/-- `Frame ::= START Item* END` (30_encoding.md R75). -/
def wireFrame (c : Config) (items : List WireItem) : List Byte :=
  c.pStart :: (itemsBytes c items ++ [c.pEnd])

/-- `E(x)` of the reference encoder, for a choice `escEnc` of `ESCENC` (40_feed.md R118). -/
def encodeByte (c : Config) (escEnc : Byte → Byte) (x : Byte) : List Byte :=
  if c.IsMarker x then [c.pEsc, escEnc x] else [x]

/-- `ENCODE(d)` less its last byte `P_END`. -/
def encodeOpen (c : Config) (escEnc : Byte → Byte) (d : List Byte) : List Byte :=
  c.pStart :: d.flatMap (encodeByte c escEnc)

/-- `ENCODE(d)` of the reference encoder (40_feed.md R118, 30_encoding.md R84). -/
def encodeFrame (c : Config) (escEnc : Byte → Byte) (d : List Byte) : List Byte :=
  encodeOpen c escEnc d ++ [c.pEnd]

end Sys2Proof.Machine
end

