-- ==== Sys2Proof/Machine/Run.lean ====
section
/-! DEFINITION. Runs of `step`: a number of edges, and the edges of a byte source that keeps offering its byte until it is
transferred. -/

namespace Sys2Proof.Machine

/-- `n` rising edges. -/
def runFor : Nat → State → Host.Outcome State Fault Refusal
  | 0, s => .next s
  | n + 1, s => andThen (step s) (runFor n)

/-- What the byte source and the external handler do at one edge: whether the source offers its next byte, and whether
`dsp_ready` is high. A slot in which the source offers nothing is a gap. -/
structure Slot where
  offers   : Bool
  dspReady : Bool
deriving DecidableEq, Repr

/-- The inputs of a slot, for the bytes `bs` that the source still holds. A gap without `dsp_ready` is `Edge.idle`. -/
def slotEdge (k : Slot) (bs : List Byte) : Edge :=
  { Edge.idle with rx := if k.offers then bs.head? else none, dspReady := k.dspReady }

/-- The bytes the source holds after the slot: an offered byte is transferred if `rx_ready` was high just before the edge, and
"the byte source must keep offering it" otherwise (30_encoding.md R71). -/
def heldAfter (k : Slot) (bs : List Byte) (s : State) : List Byte :=
  if k.offers ∧ s.Accepts then bs.tail else bs

/-- `s` with the inputs `e` at its next edge. -/
def presentEdge (e : Edge) (s : State) : State := { s with edges := e :: s.edges }

/-- The edges of a schedule, from a source that holds `bs` (40_feed.md R115, R122). -/
def runSlots : List Slot → List Byte → State → Host.Outcome Fed Fault Refusal
  | [], bs, s => .next { block := s, waiting := bs }
  | k :: ks, bs, s => andThen (step (presentEdge (slotEdge k bs) s)) (runSlots ks (heldAfter k bs s))

end Sys2Proof.Machine
end

