-- ==== Sys2Proof/Safety.lean ====
section
/-! DEFINITION. What a safe state is (10_state.md R33), and how a run ends and is observed (70_reset_and_hazards.md R238,
R243). -/

namespace Sys2Proof.Machine

/-- (I1) `BLEN <= BUF_CAP`. -/
abbrev State.LengthBounded (s : State) : Prop := s.blen ≤ s.config.bufCap

/-- (I2) `OVF = 1` implies `BLEN = BUF_CAP`. -/
abbrev State.OverflowOnlyWhenFull (s : State) : Prop := s.ovf = true → s.blen = s.config.bufCap

/-- (I3) `DST = SEARCHING` implies `BLEN = 0` and `OVF = 0`. -/
abbrev State.SearchingIsEmpty (s : State) : Prop := s.dst = .searching → s.blen = 0 ∧ s.ovf = false

/-- (I4) `PHASE != RUN` implies `DST = SEARCHING`. -/
abbrev State.ClosedSearches (s : State) : Prop := s.phase ≠ .run → s.dst = .searching

/-- (I5) `DST = DONE` implies `PHASE = RUN`, `BLEN >= 1`, `OVF = 0` and `DTAB[BUF[0]].V = 1`. -/
abbrev State.DispatchIsRegistered (s : State) : Prop :=
  s.dst = .done → s.phase = .run ∧ 1 ≤ s.blen ∧ s.ovf = false ∧ (entryAt s (frameTag s)).v = true

/-- (I7) `PHASE = HALT` implies `CFG_ERR = 1`. -/
abbrev State.HaltHasError (s : State) : Prop := s.phase = .halt → s.cfgErr = true

/-- `PHASE = RUN` implies `CFG_ERR = 0`: `RUN` is entered only by `LOCK` with `CFG_ERR = 0` (60_exceptions.md R207), and
`REG` has no effect there (41_dispatch.md R147). -/
abbrev State.RunHasNoError (s : State) : Prop := s.phase = .run → s.cfgErr = false

/-- The invariants of 10_state.md R33 that one state shows, with the configuration legal (00_scope.md R8). (I6) compares
two states and is stated of a step; (I8) holds by the type `Phase`. -/
abbrev State.Inv (s : State) : Prop :=
  s.config.Legal ∧ s.LengthBounded ∧ s.OverflowOnlyWhenFull ∧ s.SearchingIsEmpty ∧ s.ClosedSearches ∧
    s.DispatchIsRegistered ∧ s.HaltHasError ∧ s.RunHasNoError

/-- The byte source offers a byte at some coming edge. -/
abbrev State.BytesToCome (s : State) : Prop := s.edges.any (fun e => e.rx.isSome) = true

/-- Quiescence (70_reset_and_hazards.md R243): "`DST != DONE`, and the byte source offers no further byte or the RX port
is closed". -/
abbrev State.Quiescent (s : State) : Prop := s.dst ≠ .done ∧ (¬ s.BytesToCome ∨ ¬ s.Accepts)

/-- A dispatch that waits for the `DACK` of an external handler; if none ever comes the run counts as a hang
(70_reset_and_hazards.md R238, R243). -/
abbrev State.AwaitsDack (s : State) : Prop := s.InDispatch ∧ ¬ AddressedToMove s

/-- The observation of a run (70_reset_and_hazards.md R243): the dispatch trace, the final `XOUT`, `YOUT`, `PHASE` and
`CFG_ERR`, and, "for proofs only", the ghost trace `OUTCOMES`. -/
structure Observation where
  trace    : List DispatchEvent
  status   : StatusSample
  outcomes : List OutcomeCode
deriving DecidableEq, Repr

/-- What is observed of a run that ends in `s`. -/
def observe (s : State) : Observation :=
  { trace := s.trace, status := statusSample s, outcomes := s.outcomes }

end Sys2Proof.Machine
end

