-- ==== Sys2Proof/Certificates/Slice0/Obligations.lean ====
section
/-! DEFINITION. The statements about the model, one definition each. -/

open Sys2Proof Sys2Proof.Machine

/-- 30_encoding.md R77: the layout of the configuration word. -/
def Obligations.ConfigurationWordFieldsDecode : Prop :=
  ∀ (c : Config) (x : SelectCtx) (w : CfgWord),
    (w.extractLsb 15 14 = 0b00#2 →
      decode c x (.cfg w) = .ok (.reg (w.extractLsb 13 12) (w.extractLsb 11 4) (w.extractLsb 3 0))) ∧
    (w.extractLsb 15 14 = 0b01#2 → decode c x (.cfg w) = .ok (.lock (w.extractLsb 13 0))) ∧
    (w.extractLsb 15 14 = 0b10#2 → decode c x (.cfg w) = .ok (.cfgRsv 0#1 (w.extractLsb 13 0))) ∧
    (w.extractLsb 15 14 = 0b11#2 → decode c x (.cfg w) = .ok (.cfgRsv 1#1 (w.extractLsb 13 0)))

/-- 30_encoding.md R73, with the markers distinct (00_scope.md R8). -/
def Obligations.EveryByteHasExactlyOneClass : Prop :=
  ∀ (c : Config) (b : Byte), c.Legal →
    (classOf c b = .start ↔ b = c.pStart) ∧ (classOf c b = .endMark ↔ b = c.pEnd) ∧
    (classOf c b = .esc ↔ b = c.pEsc) ∧
    (classOf c b = .data ↔ b ≠ c.pStart ∧ b ≠ c.pEnd ∧ b ≠ c.pEsc)

/-- No bit of an encoding is dropped: all 20 operations, every operand. -/
def Obligations.DecodeInvertsEncode : Prop :=
  ∀ (c : Config) (x : SelectCtx) (i : Instr), c.Legal → i.wellFormed c = true → i.selectedIn x = true →
    decode c x (encode c i) = .ok i

/-- Each port word has one meaning in a context (30_encoding.md R82), and no two rows share it. -/
def Obligations.EncodeInvertsDecode : Prop :=
  ∀ (c : Config) (x : SelectCtx) (w : PortWord) (i : Instr), c.Legal → decode c x w = .ok i →
    i.wellFormed c = true ∧ i.selectedIn x = true ∧ encode c i = w

/-- A sanity statement about written-out words. -/
def Obligations.WordsOfTheTableDecode : Prop :=
  decode Config.ref tableCtx (.cfg 0x0020#16) = .ok (.reg 0b00#2 0x02#8 0x0#4) ∧
  decode Config.ref tableCtx (.cfg 0x3025#16) = .ok (.reg 0b11#2 0x02#8 0x5#4) ∧
  decode Config.ref tableCtx (.cfg 0x4000#16) = .ok (.lock 0#14) ∧
  decode Config.ref tableCtx (.cfg 0x7FFF#16) = .ok (.lock 0x3FFF#14) ∧
  decode Config.ref tableCtx (.cfg 0xFF2F#16) = .ok (.cfgRsv 1#1 0x3F2F#14) ∧
  decode Config.ref tableCtx (.rx 0x40#8) = .ok .feedSearchingStart ∧
  decode Config.ref tableCtx (.rx 0x41#8) = .ok .feedSearchingEnd ∧
  decode Config.ref tableCtx (.rx 0x42#8) = .ok .feedSearchingEsc ∧
  decode Config.ref tableCtx (.rx 0x55#8) = .ok (.feedSearchingData 0x55#8) ∧
  decode Config.ref { tableCtx with dst := .reading } (.rx 0x40#8) = .ok .feedReadingStart ∧
  decode Config.ref { tableCtx with dst := .reading } (.rx 0x41#8) = .ok .feedReadingEnd ∧
  decode Config.ref { tableCtx with dst := .reading } (.rx 0x42#8) = .ok .feedReadingEsc ∧
  decode Config.ref { tableCtx with dst := .reading } (.rx 0x55#8) = .ok (.feedReadingData 0x55#8) ∧
  decode Config.ref { tableCtx with dst := .readingEscaped } (.rx 0x40#8) = .ok .feedReadingEscapedStart ∧
  decode Config.ref { tableCtx with dst := .readingEscaped } (.rx 0x41#8) = .ok .feedReadingEscapedEnd ∧
  decode Config.ref { tableCtx with dst := .readingEscaped } (.rx 0x42#8) = .ok .feedReadingEscapedEsc ∧
  decode Config.ref { tableCtx with dst := .readingEscaped } (.rx 0x55#8) = .ok (.feedReadingEscapedData 0x55#8) ∧
  decode Config.ref { tableCtx with dst := .done } (.rx 0x40#8) = .ok (.feedNotAccepted 0x40#8)

/-- 10_state.md R23, R25, 60_exceptions.md R201. -/
def Obligations.PortCodesAndOutcomeNumbers : Prop :=
  (phaseCode .config = 0b00#2 ∧ phaseCode .run = 0b01#2 ∧ phaseCode .halt = 0b10#2) ∧
  (decoderStateCode .searching = 0b00#2 ∧ decoderStateCode .reading = 0b01#2 ∧
    decoderStateCode .readingEscaped = 0b10#2 ∧ decoderStateCode .done = 0b11#2) ∧
  (outcomeNumber .dispatched = 0 ∧ outcomeNumber .dropUnknownTag = 1 ∧ outcomeNumber .dropEmpty = 2 ∧
    outcomeNumber .dropTrunc = 3 ∧ outcomeNumber .dropOvf = 4 ∧ outcomeNumber .dupReg = 5)

/-- The per-operation statements reach a run through this one. MOVE_EXEC, due at every edge of a dispatch to
`HID_MOVE`, is the one operation that runs beside another port word (`MoveExecRunsAtTheFirstEdge`). -/
def Obligations.StepRunsTheDecodedOperation : Prop :=
  ∀ (s : State) (w : PortWord) (rest : List Edge) (i : Instr),
    s.config.Legal → s.edges = edgeOfWord w :: rest → decode s.config (selectCtx s) w = .ok i →
    (w = .internal ∨ w = .rst ∨ ¬ (s.InDispatch ∧ AddressedToMove s)) →
    step s = exec i { s with edges := rest, draws := s.draws + 1 }

/-- 42_move_handler.md R180: "It does not depend on an external agent, so a dispatch to `HID_MOVE` always finishes after
one step". The byte is not accepted, the configuration word has no effect in `RUN`, `dsp_ready` is ignored.
That the sample stands first is log entry 4, that samples are a list log entry 12, and that
no inputs left means idle edges log entry 3. -/
def Obligations.MoveExecRunsAtTheFirstEdge : Prop :=
  ∀ (s : State) (e : Edge), s.config.Legal → nextEdge s = e → e.rst = false →
    s.phase = .run → s.dst = .done → (s.dtab[s.buf[0].toNat]'(s.buf[0].isLt)).hid.toNat = s.config.hidMove →
    step s = exec .moveExec { s with
      edges := s.edges.tail, draws := s.draws + 1
      samples := s.samples ++ (if e.sample then [statusSample s] else []) }

/-- 41_dispatch.md R144. That `exec` of a `DACK` that is no step answers `noSuchStep` is the model's form of it (log entry 5). -/
def Obligations.DspReadyHasNoEffectInThreeCases : Prop :=
  ∀ (s : State) (rest : List Edge), s.config.Legal →
    (s.edges = edgeOfWord .dsp :: rest → ¬ s.InDispatch →
      step s = .next { s with edges := rest, draws := s.draws + 1 } ∧ exec .dack s = .refused .noSuchStep) ∧
    (s.edges = edgeOfWord .dsp :: rest → s.InDispatch → AddressedToMove s →
      step s = exec .moveExec { s with edges := rest, draws := s.draws + 1 } ∧
      exec .dack s = .refused .noSuchStep) ∧
    (s.edges = { edgeOfWord .dsp with rst := true } :: rest →
      step s = exec .reset { s with edges := rest, draws := s.draws + 1 })

/-- 60_exceptions.md R203. That the reader's sample (42_move_handler.md R184) is an operation of the edge and stands before
`RESET` is the model's choice (log entry 4). -/
def Obligations.EveryEdgePerformsAtMostOneEffectiveOperation : Prop :=
  ∀ (s : State) (e : Edge), s.config.Legal →
    (e.rst = true → edgeOps s e = (if e.sample then [.readOut] else []) ++ [.reset]) ∧
    (e.rst = false → ∀ i ∈ edgeOps s e, ∀ j ∈ edgeOps s e, i ≠ j → i ≠ .readOut → j ≠ .readOut →
      exec i s = .next s ∨ exec j s = .next s) ∧
    (e.rst = false → ∀ i ∈ edgeOps s e, ∀ j ∈ edgeOps s e,
      ((i.format = .rx ∧ ∀ b, i ≠ .feedNotAccepted b) ∨ i = .dack ∨ i = .moveExec) →
      ((j.format = .rx ∧ ∀ b, j ≠ .feedNotAccepted b) ∨ j = .dack ∨ j = .moveExec) → i = j) ∧
    (s.phase = .config → ∀ i ∈ edgeOps s e,
      ¬ ((i.format = .rx ∧ ∀ b, i ≠ .feedNotAccepted b) ∨ i = .dack ∨ i = .moveExec)) ∧
    (s.phase = .run → ∀ i ∈ edgeOps s e, i.format = .cfg → exec i s = .next s)

/-- 60_exceptions.md R200: "No transfer it accepts makes it signal an error". Every operation an edge selects is a step in
the state in which it runs (log entry 5: the refusal `noSuchStep` is never met by `step`). -/
def Obligations.StepAlwaysAnswersNext : Prop :=
  ∀ s : State, s.config.Legal → ∃ t, step s = .next t

/-- 00_scope.md R8 (a) to (d): "A model refuses a configuration that breaks one of them." That every step is where the model
checks it, with the answer `configRejected`, is log entry 2. -/
def Obligations.IllegalConfigurationIsRefused : Prop :=
  ∀ s : State,
    (s.config.pStart = s.config.pEnd ∨ s.config.pStart = s.config.pEsc ∨ s.config.pEnd = s.config.pEsc ∨
      s.config.bufCap < 1 ∨ 256 < s.config.bufCap ∨
      (s.config.moveFb ≠ 1 ∧ s.config.moveFb ≠ 2 ∧ s.config.moveFb ≠ 4) ∨ 16 ≤ s.config.hidMove) →
    step s = .refused .configRejected

/-- 70_reset_and_hazards.md R238: no timeout exists; 40_feed.md R115: the offered byte stays with the byte source.
That no inputs left means idle edges is log entry 3, that the samples are a list log entry 12. -/
def Obligations.UnacknowledgedDispatchWaits : Prop :=
  ∀ (s : State) (e : Edge), s.config.Legal → nextEdge s = e → e.rst = false → e.dspReady = false →
    s.InDispatch → ¬ AddressedToMove s →
    step s = .next { s with
      edges := s.edges.tail, draws := s.draws + 1
      samples := s.samples ++ (if e.sample then [statusSample s] else []) }

/-- 60_exceptions.md R211, R215. That no inputs left means idle edges is the model's choice (log entry 3). -/
def Obligations.IdleEdgeChangesNothingOutsideADispatch : Prop :=
  ∀ s : State, s.config.Legal → nextEdge s = Edge.idle → ¬ s.InDispatch →
    step s = .next { s with edges := s.edges.tail, draws := s.draws + 1 }

/-- 40_feed.md R103, R104, R105. -/
def Obligations.NoiseInSearchingIsDiscarded : Prop :=
  ∀ (s : State) (b : Byte), s.phase = .run → s.dst = .searching → ¬ s.config.IsMarker b →
    exec (.feedSearchingData b) s = .next s ∧ exec .feedSearchingEnd s = .next s ∧
      exec .feedSearchingEsc s = .next s

/-- 40_feed.md R106, R102. -/
def Obligations.StartMarkerInSearchingBeginsAFrame : Prop :=
  ∀ s : State, s.phase = .run → s.dst = .searching →
    exec .feedSearchingStart s = .next { s with dst := .reading, blen := 0, ovf := false }

/-- 40_feed.md R107, R101. -/
def Obligations.DataByteInReadingIsAppended : Prop :=
  ∀ (s : State) (b : Byte), s.phase = .run → s.dst = .reading → ¬ s.config.IsMarker b →
    (s.blen < s.config.bufCap →
      exec (.feedReadingData b) s = .next { s with buf := s.buf.setIfInBounds s.blen b, blen := s.blen + 1 }) ∧
    (¬ s.blen < s.config.bufCap → exec (.feedReadingData b) s = .next { s with ovf := true })

/-- 40_feed.md R108. -/
def Obligations.EscapeMarkerInReadingMakesNextByteLiteral : Prop :=
  ∀ s : State, s.phase = .run → s.dst = .reading →
    exec .feedReadingEsc s = .next { s with dst := .readingEscaped }

/-- 40_feed.md R109 (90_conflicts.md C1). -/
def Obligations.StartMarkerInReadingRestartsTheFrame : Prop :=
  ∀ s : State, s.phase = .run → s.dst = .reading →
    exec .feedReadingStart s =
      .next { s with blen := 0, ovf := false, outcomes := s.outcomes ++ [.dropTrunc] }

/-- 40_feed.md R111 to R114. -/
def Obligations.EscapedByteIsAppendedUnescaped : Prop :=
  ∀ (s : State) (b v : Byte) (i : Instr), s.phase = .run → s.dst = .readingEscaped →
    ((i = .feedReadingEscapedData b ∧ ¬ s.config.IsMarker b ∧ v = s.config.unesc[b.toNat]'(b.isLt)) ∨
      (i = .feedReadingEscapedEnd ∧ v = s.config.unesc[s.config.pEnd.toNat]'(s.config.pEnd.isLt)) ∨
      (i = .feedReadingEscapedEsc ∧ v = s.config.unesc[s.config.pEsc.toNat]'(s.config.pEsc.isLt)) ∨
      (i = .feedReadingEscapedStart ∧ v = s.config.unesc[s.config.pStart.toNat]'(s.config.pStart.isLt))) →
    (s.blen < s.config.bufCap → exec i s = .next { s with
      dst := .reading, buf := s.buf.setIfInBounds s.blen v, blen := s.blen + 1 }) ∧
    (¬ s.blen < s.config.bufCap → exec i s = .next { s with dst := .reading, ovf := true })

/-- 40_feed.md R110, 41_dispatch.md R140, R141. -/
def Obligations.CompletedFrameIsDispatchedOrDropped : Prop :=
  ∀ s : State, s.phase = .run → s.dst = .reading →
    (s.ovf = true → exec .feedReadingEnd s = .next { s with
      dst := .searching, blen := 0, ovf := false, outcomes := s.outcomes ++ [.dropOvf] }) ∧
    (s.ovf = false → s.blen = 0 → exec .feedReadingEnd s = .next { s with
      dst := .searching, blen := 0, ovf := false, outcomes := s.outcomes ++ [.dropEmpty] }) ∧
    (s.ovf = false → s.blen ≠ 0 → (s.dtab[s.buf[0].toNat]'(s.buf[0].isLt)).v = false →
      exec .feedReadingEnd s = .next { s with
        dst := .searching, blen := 0, ovf := false, outcomes := s.outcomes ++ [.dropUnknownTag] }) ∧
    (s.ovf = false → s.blen ≠ 0 → (s.dtab[s.buf[0].toNat]'(s.buf[0].isLt)).v = true →
      exec .feedReadingEnd s = .next { s with
        dst := .done
        trace := s.trace ++ [{ tag := s.buf[0], hid := (s.dtab[s.buf[0].toNat]'(s.buf[0].isLt)).hid,
                               payload := (s.buf.toList.take s.blen).drop 1 }]
        outcomes := s.outcomes ++ [.dispatched] })

/-- 40_feed.md R115, R116. What lifts the hold is stated of `DACK`, `MOVE_EXEC`, `LOCK` and `RESET`. -/
def Obligations.OfferedByteIsNotAcceptedWhenThePortIsClosed : Prop :=
  ∀ (s : State) (b : Byte), (s.dst = .done ∨ s.phase ≠ .run) →
    rxReady s false = false ∧ decode s.config (selectCtx s) (.rx b) = .ok (.feedNotAccepted b) ∧
      exec (.feedNotAccepted b) s = .next s

/-- 40_feed.md R100: "It never changes `PHASE`, `CFG_ERR`, `DTAB`, `XOUT` or `YOUT`"; R101: the one cell `Append`
writes, and only with room. -/
def Obligations.FeedLeavesPhaseTableAndOutputsAlone : Prop :=
  ∀ (i : Instr) (s t : State), i.format = .rx → exec i s = .next t →
    t.phase = s.phase ∧ t.cfgErr = s.cfgErr ∧ t.dtab = s.dtab ∧ t.xout = s.xout ∧ t.yout = s.yout ∧
      t.config = s.config ∧ t.edges = s.edges ∧ t.samples = s.samples ∧
      ∀ n (h : n < 256), t.buf[n] ≠ s.buf[n] →
        n = s.blen ∧ s.blen < s.config.bufCap ∧ t.blen = s.blen + 1 ∧
          (s.dst = .readingEscaped ∨ ∃ b, i = .feedReadingData b)

/-- 40_feed.md R117: FEED "never fails to consume an accepted byte". -/
def Obligations.AcceptedByteRunsExactlyOneFeedRow : Prop :=
  ∀ (s : State) (b : Byte), s.phase = .run → s.dst ≠ .done →
    ∃ i t, decode s.config (selectCtx s) (.rx b) = .ok i ∧ i.format = .rx ∧ i ≠ .feedNotAccepted b ∧
      exec i s = .next t

/-- 20_memory.md R52: stream order is buffer order. -/
def Obligations.AppendExtendsTheDecodedFrame : Prop :=
  ∀ (s t : State) (b : Byte), s.Inv → s.phase = .run → s.blen < s.config.bufCap →
    (s.dst = .reading → exec (.feedReadingData b) s = .next t → decodedFrame t = decodedFrame s ++ [b]) ∧
    (s.dst = .readingEscaped → feedByte b s = .next t →
      decodedFrame t = decodedFrame s ++ [s.config.unesc[b.toNat]'(b.isLt)])

/-- 41_dispatch.md R147. -/
def Obligations.RegistrationWritesOneEntryOnce : Prop :=
  ∀ (s : State) (rsv : BitVec 2) (t : Byte) (h : HandlerId),
    (s.phase = .config → (s.dtab[t.toNat]'(t.isLt)).v = false →
      exec (.reg rsv t h) s = .next { s with dtab := s.dtab.set t.toNat { v := true, hid := h } t.isLt }) ∧
    (s.phase = .config → (s.dtab[t.toNat]'(t.isLt)).v = true →
      exec (.reg rsv t h) s = .next { s with cfgErr := true, outcomes := s.outcomes ++ [.dupReg] }) ∧
    (s.phase ≠ .config → exec (.reg rsv t h) s = .next s)

/-- 41_dispatch.md R148. -/
def Obligations.LockEndsTheConfigurationPhase : Prop :=
  ∀ (s : State) (ign : BitVec 14),
    (s.phase = .config → s.cfgErr = true → exec (.lock ign) s = .next { s with phase := .halt }) ∧
    (s.phase = .config → s.cfgErr = false → exec (.lock ign) s = .next { s with phase := .run }) ∧
    (s.phase ≠ .config → exec (.lock ign) s = .next s)

/-- 41_dispatch.md R150. -/
def Obligations.ReservedConfigurationWordHasNoEffect : Prop :=
  ∀ (s : State) (op0 : BitVec 1) (ign : BitVec 14), exec (.cfgRsv op0 ign) s = .next s

/-- 41_dispatch.md R149, 60_exceptions.md R209, 70_reset_and_hazards.md R234. -/
def Obligations.RegistrationOrderIsIrrelevant : Prop :=
  ∀ (c : Config) (l l' : List (Byte × HandlerId)), l.Perm l' →
    ((l.map Prod.fst).Nodup →
      ∃ t, execAll (l.map (fun p => .reg 0#2 p.1 p.2) ++ [.lock 0#14]) (State.resetWith c) = .next t ∧
        execAll (l'.map (fun p => .reg 0#2 p.1 p.2) ++ [.lock 0#14]) (State.resetWith c) = .next t ∧
        t.phase = .run ∧ (∀ p ∈ l, entryAt t p.1 = { v := true, hid := p.2 }) ∧
        ∀ u, u ∉ l.map Prod.fst → (entryAt t u).v = false) ∧
    (¬ (l.map Prod.fst).Nodup →
      ∃ t, execAll (l'.map (fun p => .reg 0#2 p.1 p.2) ++ [.lock 0#14]) (State.resetWith c) = .next t ∧
        t.phase = .halt ∧ t.cfgErr = true)

/-- 60_exceptions.md R208: "A `FEED`, `DACK` or `MOVE_EXEC` attempted outside `RUN` is not a fault." That `exec` answers
`noSuchStep` for the step that does not exist is log entry 5. -/
def Obligations.OperationsOutsideTheirPhaseAreNoFault : Prop :=
  ∀ s : State,
    (s.phase ≠ .run → rxReady s false = false ∧ (s.Inv → dspValid s false = false) ∧
      ∀ i : Instr, (i.format = .rx ∧ (∀ b, i ≠ .feedNotAccepted b)) ∨ i = .dack ∨ i = .moveExec →
        exec i s = .refused .noSuchStep) ∧
    (s.phase ≠ .config → ∀ i : Instr, i.format = .cfg → exec i s = .next s)

/-- 41_dispatch.md R143: "Enabled when `PHASE = RUN`, `DST = DONE` and `DTAB[BUF[0]].HID != HID_MOVE`." That `exec` answers
`noSuchStep` elsewhere (R144) is log entry 5. -/
def Obligations.DackEndsAnExternalDispatch : Prop :=
  ∀ s : State,
    (s.phase = .run ∧ s.dst = .done ∧ (s.dtab[s.buf[0].toNat]'(s.buf[0].isLt)).hid.toNat ≠ s.config.hidMove →
      exec .dack s = .next { s with dst := .searching, blen := 0, ovf := false }) ∧
    (¬ (s.phase = .run ∧ s.dst = .done ∧
        (s.dtab[s.buf[0].toNat]'(s.buf[0].isLt)).hid.toNat ≠ s.config.hidMove) →
      exec .dack s = .refused .noSuchStep)

/-- 42_move_handler.md R180, R181; the fields are spelled out in `MoveFieldsAreLittleEndianAndExtended`. -/
def Obligations.MoveExecWritesBothOutputsOrNeither : Prop :=
  ∀ s : State, s.phase = .run → s.dst = .done → s.blen ≤ 256 →
    (s.dtab[s.buf[0].toNat]'(s.buf[0].isLt)).hid.toNat = s.config.hidMove →
    (2 * s.config.moveFb ≤ s.blen - 1 → exec .moveExec s = .next { s with
      xout := xField s.config ((s.buf.toList.take s.blen).drop 1)
      yout := yField s.config ((s.buf.toList.take s.blen).drop 1)
      dst := .searching, blen := 0, ovf := false }) ∧
    (¬ 2 * s.config.moveFb ≤ s.blen - 1 → exec .moveExec s = .next { s with
      dst := .searching, blen := 0, ovf := false })

/-- 30_encoding.md R80, 42_move_handler.md R182. -/
def Obligations.MoveFieldsAreLittleEndianAndExtended : Prop :=
  ∀ (c : Config) (x0 x1 x2 x3 y0 y1 y2 y3 : Byte) (before more : List Byte),
    fieldLE (before ++ x0 :: more) before.length 1 = x0 ∧
    fieldLE (before ++ x0 :: x1 :: more) before.length 2 = x1 ++ x0 ∧
    fieldLE (before ++ x0 :: x1 :: x2 :: x3 :: more) before.length 4 = x3 ++ x2 ++ x1 ++ x0 ∧
    (c.moveFb = 1 →
      xField c (x0 :: y0 :: more) = (if c.moveSigned then x0.signExtend 32 else x0.zeroExtend 32) ∧
      yField c (x0 :: y0 :: more) = (if c.moveSigned then y0.signExtend 32 else y0.zeroExtend 32)) ∧
    (c.moveFb = 2 →
      xField c (x0 :: x1 :: y0 :: y1 :: more) =
        (if c.moveSigned then (x1 ++ x0).signExtend 32 else (x1 ++ x0).zeroExtend 32) ∧
      yField c (x0 :: x1 :: y0 :: y1 :: more) =
        (if c.moveSigned then (y1 ++ y0).signExtend 32 else (y1 ++ y0).zeroExtend 32)) ∧
    (c.moveFb = 4 →
      xField c (x0 :: x1 :: x2 :: x3 :: y0 :: y1 :: y2 :: y3 :: more) = x3 ++ x2 ++ x1 ++ x0 ∧
      yField c (x0 :: x1 :: x2 :: x3 :: y0 :: y1 :: y2 :: y3 :: more) = y3 ++ y2 ++ y1 ++ y0)

/-- 70_reset_and_hazards.md R231. `BUF` is unspecified there and no value of it is stated. That the parameters are `REF` is
log entry 1. That the empty ghost traces belong to this state and not to the effect of a `RESET` operation is log entry 6. -/
def Obligations.ResetStateHoldsTheSpecifiedValues : Prop :=
  State.reset = State.resetWith Config.ref ∧
  ∀ c : Config, (State.resetWith c).dst = .searching ∧ (State.resetWith c).blen = 0 ∧
    (State.resetWith c).ovf = false ∧ (State.resetWith c).phase = .config ∧ (State.resetWith c).cfgErr = false ∧
    (∀ t (h : t < 256), (State.resetWith c).dtab[t] = { v := false, hid := 0#4 }) ∧
    (State.resetWith c).xout = 0#32 ∧ (State.resetWith c).yout = 0#32 ∧
    (State.resetWith c).trace = [] ∧ (State.resetWith c).outcomes = []

/-- 70_reset_and_hazards.md R230, R231, R233. That a `RESET` operation keeps both ghost traces is the model's reading of R231
against R233 (log entry 6); that the agents' records stay is log entry 16. -/
def Obligations.ResetOperationDiscardsCurrentWork : Prop :=
  ∀ s : State, rxReady s true = false ∧ dspValid s true = false ∧
    ∃ t, exec .reset s = .next t ∧ t.phase = .config ∧ t.cfgErr = false ∧ t.dst = .searching ∧ t.blen = 0 ∧
      t.ovf = false ∧ (∀ n (h : n < 256), t.dtab[n] = { v := false, hid := 0#4 }) ∧ t.xout = 0#32 ∧
      t.yout = 0#32 ∧ t.config = s.config ∧ t.trace = s.trace ∧ t.outcomes = s.outcomes ∧
      t.edges = s.edges ∧ t.samples = s.samples

/-- 42_move_handler.md R184. The list of samples is the model's own (log entry 12). -/
def Obligations.ReadOutReturnsTheStatusOutputs : Prop :=
  ∀ s : State,
    exec .readOut s = .next { s with samples := s.samples ++
      [{ xout := s.xout, yout := s.yout, phase := s.phase, cfgErr := s.cfgErr }] } ∧
    ∀ rest, s.config.Legal → s.edges = { edgeOfWord .rst with sample := true } :: rest →
      ∃ t, step s = .next t ∧ t.phase = .config ∧ t.xout = 0#32 ∧ t.samples = s.samples ++
        [{ xout := s.xout, yout := s.yout, phase := s.phase, cfgErr := s.cfgErr }]

/-- 30_encoding.md R72. -/
def Obligations.ByteAcceptedOnlyInRunOutsideADispatch : Prop :=
  ∀ (s : State) (rst : Bool) (a : Byte),
    (portOutputs s rst a).rxReady = true ↔ rst = false ∧ s.phase = .run ∧ s.dst ≠ .done

/-- 30_encoding.md R79, 20_memory.md R51. Nothing is stated out of range or outside `DONE`. That `dsp_rdata`
keeps its value in `DONE` while `rst` is 1 is log entry 17. -/
def Obligations.DispatchOutputsPresentTheFrame : Prop :=
  ∀ (s : State) (a : Byte), s.Inv →
    (s.dst = .done → (portOutputs s false a).dspValid = true ∧ (portOutputs s false a).dspTag = s.buf[0] ∧
      (portOutputs s false a).dspHid = (s.dtab[s.buf[0].toNat]'(s.buf[0].isLt)).hid ∧
      (portOutputs s false a).dspLen = s.blen - 1) ∧
    (s.dst = .done → ∀ (rst : Bool) (h : 1 + a.toNat < 256), a.toNat < s.blen - 1 →
      (portOutputs s rst a).dspRdata = s.buf[1 + a.toNat]) ∧
    (s.dst ≠ .done → (portOutputs s false a).dspValid = false) ∧ (portOutputs s true a).dspValid = false

/-- 00_scope.md R7, the derived widths (92_eei_decisions.md D31: every value fits). -/
def Obligations.CountersFitTheirWidths : Prop :=
  (∀ (s : State) (rst : Bool) (a : Byte), s.Inv →
    s.blen < 2 ^ blenWidth s.config ∧ (portOutputs s rst a).dspLen < 2 ^ lenWidth s.config) ∧
  (∀ c : Config, c.bufCap = 64 → blenWidth c = 7 ∧ lenWidth c = 6)

/-- 10_state.md R34. That the free values depend on the draw counter alone is the model's form of a draw (log entry 9). -/
def Obligations.HiddenStateIsNotSeenOutsideADispatch : Prop :=
  ∀ (s t : State) (rst : Bool) (a : Byte), s.dst ≠ .done → t.dst ≠ .done → s.phase = t.phase →
    s.cfgErr = t.cfgErr → s.xout = t.xout → s.yout = t.yout → s.config = t.config → s.draws = t.draws →
    portOutputs s rst a = portOutputs t rst a

/-- 10_state.md R33, the base case. -/
def Obligations.ResetStateSatisfiesTheInvariant : Prop :=
  State.reset.Inv ∧ ∀ c : Config, c.Legal → (State.resetWith c).Inv

/-- 10_state.md R33 (I1) to (I5), (I7). (I6) is `DispatchTableIsFrozenOutsideConfig`; (I8) holds by the type of `PHASE`. -/
def Obligations.EveryStepKeepsTheInvariant : Prop :=
  ∀ s t : State, s.Inv → step s = .next t → t.Inv

/-- 10_state.md R33 (I6), 20_memory.md R61, 60_exceptions.md R207. -/
def Obligations.DispatchTableIsFrozenOutsideConfig : Prop :=
  ∀ s t : State, s.phase ≠ .config → (nextEdge s).rst = false → step s = .next t →
    t.dtab = s.dtab ∧ t.phase = s.phase

/-- 10_state.md R31, 20_memory.md R58. -/
def Obligations.OutputsChangeOnlyByMoveExecAndReset : Prop :=
  ∀ (i : Instr) (s t : State), exec i s = .next t → i ≠ .moveExec → i ≠ .reset →
    t.xout = s.xout ∧ t.yout = s.yout

/-- 60_exceptions.md R207. -/
def Obligations.PhasesAreEnteredOnlyAsStated : Prop :=
  (∀ (i : Instr) (s t : State), exec i s = .next t → t.phase ≠ s.phase →
    (t.phase = .config → i = .reset) ∧
    (t.phase = .run → s.phase = .config ∧ s.cfgErr = false ∧ ∃ ign, i = .lock ign) ∧
    (t.phase = .halt → s.phase = .config ∧ s.cfgErr = true ∧ ∃ ign, i = .lock ign)) ∧
  (∀ (i : Instr) (s t : State), exec i s = .next t → s.phase = .halt → i ≠ .reset →
    { t with samples := s.samples } = s) ∧
  (∀ s : State, s.phase = .config → rxReady s false = false) ∧
  (∀ (i : Instr) (s : State), i.format = .cfg → s.phase ≠ .config → exec i s = .next s)

/-- 10_state.md R26. -/
def Obligations.ConfigurationErrorIsSticky : Prop :=
  ∀ (i : Instr) (s t : State), exec i s = .next t →
    (s.cfgErr = false → t.cfgErr = true →
      s.phase = .config ∧ ∃ rsv tag hid, i = .reg rsv tag hid ∧ (entryAt s tag).v = true) ∧
    (s.cfgErr = true → t.cfgErr = false → i = .reset)

/-- 10_state.md R32, 60_exceptions.md R205. That `RESET` leaves `TRACE` is the model's reading of
70_reset_and_hazards.md R233 against the table of R231 (log entry 6). -/
def Obligations.TraceGrowsOnlyByFrameCompletion : Prop :=
  ∀ (i : Instr) (s t : State), exec i s = .next t →
    t.trace = s.trace ∨
    (i = .feedReadingEnd ∧ s.phase = .run ∧ s.dst = .reading ∧ t.dst = .done ∧ t.buf = s.buf ∧ t.blen = s.blen ∧
      ∃ ev, t.trace = s.trace ++ [ev] ∧ ev.tag :: ev.payload = decodedFrame s ∧
        entryAt s ev.tag = { v := true, hid := ev.hid })

/-- 41_dispatch.md R146, over the ghost traces of 10_state.md R32. Over an edge with `rst = 1` it rests on
`RESET` keeping both traces, the model's reading of R233 against the table of R231 (log entry 6). -/
def Obligations.EveryDispatchIsRecordedOnce : Prop :=
  (∀ c : Config, (State.resetWith c).trace.length = (State.resetWith c).outcomes.count .dispatched) ∧
  ∀ s t : State, s.trace.length = s.outcomes.count .dispatched → step s = .next t →
    t.trace.length = t.outcomes.count .dispatched

/-- 41_dispatch.md R145, R142. -/
def Obligations.DispatchIsFrozenAndNeverNested : Prop :=
  ∀ s : State, s.phase = .run → s.dst = .done → rxReady s false = false ∧
    ∀ (i : Instr) (t : State), exec i s = .next t → i ≠ .dack → i ≠ .moveExec → i ≠ .reset →
      { t with samples := s.samples } = s

/-- 00_scope.md R7: "one configuration record that no step changes". -/
def Obligations.ParametersNeverChange : Prop :=
  ∀ s t : State, step s = .next t → t.config = s.config

/-- 30_encoding.md R75: the frame grammar. -/
def Obligations.WireFrameDecodesToItsItems : Prop :=
  ∀ (s : State) (items : List WireItem), s.config.Legal → s.phase = .run →
    (s.dst = .searching ∨ s.dst = .reading) → (∀ it ∈ items, itemLegal s.config it = true) →
    ∃ u, feedAll (s.config.pStart :: itemsBytes s.config items) s = consumed u ∧ u.phase = .run ∧ u.dst = .reading ∧
      decodedFrame u = (items.map (itemValue s.config)).take s.config.bufCap ∧
      (u.ovf = true ↔ s.config.bufCap < items.length) ∧ u.trace = s.trace ∧
      ∃ t, exec .feedReadingEnd u = .next t ∧ feedAll (wireFrame s.config items) s = consumed t

/-- 40_feed.md R118. -/
def Obligations.EncodedFrameRoundTrips : Prop :=
  ∀ (s : State) (escEnc : Byte → Byte) (tag : Byte) (payload : List Byte), s.config.Legal → s.phase = .run →
    (s.dst = .searching ∨ s.dst = .reading) → (tag :: payload).length ≤ s.config.bufCap →
    (∀ x ∈ tag :: payload, s.config.IsMarker x → unescape s.config (escEnc x) = x) →
    (∃ u, feedAll (encodeOpen s.config escEnc (tag :: payload)) s = consumed u ∧ u.dst = .reading ∧
      decodedFrame u = tag :: payload ∧ u.ovf = false ∧ u.trace = s.trace ∧
      u.outcomes = s.outcomes ++ (if s.dst = .reading then [.dropTrunc] else [])) ∧
    ∃ t, feedAll (encodeFrame s.config escEnc (tag :: payload)) s = consumed t ∧
      ((entryAt s tag).v = true → t.dst = .done ∧
        t.trace = s.trace ++ [{ tag := tag, hid := (entryAt s tag).hid, payload := payload }]) ∧
      ((entryAt s tag).v = false → t.dst = .searching ∧ t.trace = s.trace)

/-- 40_feed.md R119 (b). -/
def Obligations.GarbageWithoutStartIsDiscarded : Prop :=
  ∀ (s : State) (g : List Byte), s.phase = .run → s.dst = .searching → s.config.pStart ∉ g →
    feedAll g s = consumed s ∧ deliverAll g s = consumed s ∧
    ∀ (escEnc : Byte → Byte) (tag : Byte) (payload : List Byte), s.config.Legal →
      (tag :: payload).length ≤ s.config.bufCap →
      (∀ x ∈ tag :: payload, s.config.IsMarker x → unescape s.config (escEnc x) = x) → (entryAt s tag).v = true →
      ∃ t, deliverAll (g ++ encodeFrame s.config escEnc (tag :: payload)) s = consumed t ∧ t.dst = .searching ∧
        t.trace = s.trace ++ [{ tag := tag, hid := (entryAt s tag).hid, payload := payload }]

/-- 40_feed.md R121. The items of the first frame leave no pending escape, as R121 requires of `xk`. -/
def Obligations.TwoStartMarkersKeepOnlyTheSecondFrame : Prop :=
  ∀ (s : State) (items items' : List WireItem), s.config.Legal → s.phase = .run →
    (s.dst = .searching ∨ s.dst = .reading) → (∀ it ∈ items, itemLegal s.config it = true) →
    (∀ it ∈ items', itemLegal s.config it = true) →
    ∃ t, feedAll ((s.config.pStart :: itemsBytes s.config items) ++ wireFrame s.config items') s = consumed t ∧
      (t.trace = s.trace ∨ ∃ ev, t.trace = s.trace ++ [ev] ∧
        ev.tag :: ev.payload = items'.map (itemValue s.config))

/-- 70_reset_and_hazards.md R241. -/
def Obligations.GuardByteResynchronises : Prop :=
  ∀ (s : State) (g : Byte), s.config.Legal → s.phase = .run → s.dst ≠ .done → ¬ s.config.IsMarker g →
    ∃ t, feedAll [g, s.config.pStart] s = consumed t ∧ t.phase = .run ∧ t.dst = .reading ∧ t.blen = 0 ∧
      t.ovf = false ∧ t.trace = s.trace

/-- 40_feed.md R120. -/
def Obligations.OnlyUnescapedEndCompletesAFrame : Prop :=
  (∀ (i : Instr) (s t : State) (k : OutcomeCode), exec i s = .next t → t.outcomes = s.outcomes ++ [k] →
    k = .dispatched ∨ k = .dropOvf ∨ k = .dropEmpty ∨ k = .dropUnknownTag → i = .feedReadingEnd ∧ s.dst = .reading) ∧
  (∀ s : State, s.config.Legal → s.phase = .run → s.dst = .reading →
    feedAll [s.config.pEsc, s.config.pEnd] s =
      consumed { append (unescape s.config s.config.pEnd) s with dst := .reading })

/-- The block's own steps never hang (70_reset_and_hazards.md R238), and a byte that waits during a dispatch is fed after it
(40_feed.md R115). -/
def Obligations.AcknowledgedStreamIsAlwaysConsumed : Prop :=
  ∀ (s : State) (g : List Byte), s.phase = .run →
    ∃ t, deliverAll g s = consumed t ∧ t.phase = .run ∧ t.dst ≠ .done

/-- 40_feed.md R122 over `step`: "the dispatch trace depends only on the concatenated byte sequence"; "bytes offered during
`DONE` wait for the handler (rule R115)". A slot that offers nothing and has no `dsp_ready` is `Edge.idle`. -/
def Obligations.StreamIsIndependentOfGaps : Prop :=
  ∀ (s : State) (bs : List Byte), s.config.Legal → s.phase = .run →
    (∀ (ks ks' : List Slot) (t t' : State), runSlots ks bs s = consumed t → ¬ t.InDispatch →
      runSlots ks' bs s = consumed t' → ¬ t'.InDispatch →
      { t' with draws := t.draws } = t ∧ t'.trace = t.trace ∧
        deliverAll bs s = consumed { t with draws := s.draws }) ∧
    ∃ t, runSlots (List.replicate (2 * bs.length + 1) { offers := true, dspReady := true }) bs s = consumed t ∧
      ¬ t.InDispatch

/-- 70_reset_and_hazards.md R243: "A run that stops with `DST = DONE` and `dsp_hid != HID_MOVE` is not quiescent"; R238. The
formula of R243 speaks of the byte source alone, so edges with `rst` or a configuration word are left out. That no
inputs left means idle edges is log entry 3. -/
def Obligations.QuiescentAndHangingRunsKeepTheirObservation : Prop :=
  ∀ (s : State) (n : Nat), s.config.Legal →
    (s.Quiescent → (∀ e ∈ s.edges, e.rst = false ∧ e.cfg = none) →
      ∃ t, runFor n s = .next t ∧ t.Quiescent ∧ observe t = observe s ∧
        { t with edges := s.edges, samples := s.samples, draws := s.draws } = s) ∧
    (s.AwaitsDack → (∀ e ∈ s.edges, e.rst = false ∧ e.dspReady = false) →
      ∃ t, runFor n s = .next t ∧ t.AwaitsDack ∧ ¬ t.Quiescent ∧ observe t = observe s ∧
        { t with edges := s.edges, samples := s.samples, draws := s.draws } = s)

/-- 40_feed.md R119 (a) and (c). (b) is `GarbageWithoutStartIsDiscarded`. -/
def Obligations.FrameAfterAPrefixIsDispatchedUnlessAnEscapeIsPending : Prop :=
  ∀ (s : State) (g : List Byte) (escEnc : Byte → Byte) (tag : Byte) (payload : List Byte), s.Inv → s.phase = .run →
    (tag :: payload).length ≤ s.config.bufCap →
    (∀ x ∈ tag :: payload, s.config.IsMarker x → unescape s.config (escEnc x) = x) →
    ∃ u, deliverAll g s = consumed u ∧
      (u.dst ≠ .readingEscaped →
        ∃ v t, feedAll (encodeOpen s.config escEnc (tag :: payload)) u = consumed v ∧
          decodedFrame v = tag :: payload ∧ v.trace = u.trace ∧
          v.outcomes = u.outcomes ++ (if u.dst = .reading then [.dropTrunc] else []) ∧
          feedAll (encodeFrame s.config escEnc (tag :: payload)) u = consumed t ∧
          t.outcomes = v.outcomes ++ [if (entryAt u tag).v then .dispatched else .dropUnknownTag] ∧
          t.trace = u.trace ++ (if (entryAt u tag).v then
            [{ tag := tag, hid := (entryAt u tag).hid, payload := payload }] else [])) ∧
      (u.dst = .readingEscaped →
        ∃ v t, feedAll (encodeOpen s.config escEnc (tag :: payload)) u = consumed v ∧ v.dst = .reading ∧
          decodedFrame v = (decodedFrame u ++ unescape s.config s.config.pStart :: tag :: payload).take s.config.bufCap ∧
          v.trace = u.trace ∧ v.outcomes = u.outcomes ∧
          feedAll (encodeFrame s.config escEnc (tag :: payload)) u = consumed t ∧
          (t.trace = u.trace ∨ ∃ ev, t.trace = u.trace ++ [ev] ∧
            ev.tag :: ev.payload = decodedFrame u ++ unescape s.config s.config.pStart :: tag :: payload))
end

