-- ==== Sys2Proof/Laws/Decode.lean ====
section
/-! SUPPORT. What the decoder's functions read: the class of a byte, and the fields of a configuration word that the
encoder wrote. -/

namespace Sys2Proof

theorem classOf_eq_data_iff (c : Config) (b : Byte) : classOf c b = .data ↔ ¬ c.IsMarker b := by
  unfold classOf
  grind

theorem classOf_pStart (c : Config) : classOf c c.pStart = .start := if_pos rfl

theorem classOf_pEnd {c : Config} (h : c.Legal) : classOf c c.pEnd = .endMark := by
  simp [classOf, h.1.1.symm]

theorem classOf_pEsc {c : Config} (h : c.Legal) : classOf c c.pEsc = .esc := by
  simp [classOf, h.1.2.1.symm, h.1.2.2.symm]

/-- Where the port is closed every byte decodes to `FEED.NOT_ACCEPTED`. -/
theorem decodeRx_of_closed (c : Config) {x : SelectCtx} (h : x.dst = .done ∨ x.phase ≠ .run) (b : Byte) :
    decodeRx c x b = .feedNotAccepted b := by
  unfold decodeRx
  rcases h with h | h <;> simp [h]

theorem decodeRx_searching (c : Config) {x : SelectCtx} (hp : x.phase = .run) (hd : x.dst = .searching) (b : Byte) :
    decodeRx c x b = searchingRow b (classOf c b) := by simp [decodeRx, hp, hd]

theorem decodeRx_reading (c : Config) {x : SelectCtx} (hp : x.phase = .run) (hd : x.dst = .reading) (b : Byte) :
    decodeRx c x b = readingRow b (classOf c b) := by simp [decodeRx, hp, hd]

theorem decodeRx_escaped (c : Config) {x : SelectCtx} (hp : x.phase = .run) (hd : x.dst = .readingEscaped) (b : Byte) :
    decodeRx c x b = escapedRow b (classOf c b) := by simp [decodeRx, hp, hd]

theorem cfgFields_of_reg (rsv : BitVec 2) (tag : Byte) (hid : HandlerId) :
    cfgOp (0b00#2 ++ rsv ++ tag ++ hid) = 0b00#2 ∧ cfgRsvField (0b00#2 ++ rsv ++ tag ++ hid) = rsv ∧
    cfgTag (0b00#2 ++ rsv ++ tag ++ hid) = tag ∧ cfgHid (0b00#2 ++ rsv ++ tag ++ hid) = hid := by
  refine ⟨?_, ?_, ?_, ?_⟩ <;> ext i hi <;> simp [cfgOp, cfgRsvField, cfgTag, cfgHid] <;> grind

theorem cfgFields_of_lock (ign : BitVec 14) :
    cfgOp (0b01#2 ++ ign) = 0b01#2 ∧ cfgIgn (0b01#2 ++ ign) = ign := by
  refine ⟨?_, ?_⟩ <;> ext i hi <;> simp [cfgOp, cfgIgn] <;> grind

theorem cfgFields_of_cfgRsv (op0 : BitVec 1) (ign : BitVec 14) :
    cfgOp (0b1#1 ++ op0 ++ ign) = 0b1#1 ++ op0 ∧
      (0b1#1 ++ op0 ++ ign).extractLsb' 14 1 = op0 ∧ cfgIgn (0b1#1 ++ op0 ++ ign) = ign := by
  refine ⟨?_, ?_, ?_⟩ <;> ext i hi <;> simp [cfgOp, cfgIgn] <;> grind

end Sys2Proof
end

