-- ==== Sys2Proof/Laws/State.lean ====
section
/-! SUPPORT. One lemma per field per update of State, true by definition, so that no proof unfolds a record update. -/

namespace Sys2Proof.Machine

@[simp] theorem withDst_config (s : State) (d : DecoderState) : (s.withDst d).config = s.config := rfl
@[simp] theorem withDst_phase (s : State) (d : DecoderState) : (s.withDst d).phase = s.phase := rfl
@[simp] theorem withDst_cfgErr (s : State) (d : DecoderState) : (s.withDst d).cfgErr = s.cfgErr := rfl
@[simp] theorem withDst_dst (s : State) (d : DecoderState) : (s.withDst d).dst = d := rfl
@[simp] theorem withDst_buf (s : State) (d : DecoderState) : (s.withDst d).buf = s.buf := rfl
@[simp] theorem withDst_blen (s : State) (d : DecoderState) : (s.withDst d).blen = s.blen := rfl
@[simp] theorem withDst_ovf (s : State) (d : DecoderState) : (s.withDst d).ovf = s.ovf := rfl
@[simp] theorem withDst_dtab (s : State) (d : DecoderState) : (s.withDst d).dtab = s.dtab := rfl
@[simp] theorem withDst_xout (s : State) (d : DecoderState) : (s.withDst d).xout = s.xout := rfl
@[simp] theorem withDst_yout (s : State) (d : DecoderState) : (s.withDst d).yout = s.yout := rfl
@[simp] theorem withDst_trace (s : State) (d : DecoderState) : (s.withDst d).trace = s.trace := rfl
@[simp] theorem withDst_outcomes (s : State) (d : DecoderState) : (s.withDst d).outcomes = s.outcomes := rfl
@[simp] theorem withDst_edges (s : State) (d : DecoderState) : (s.withDst d).edges = s.edges := rfl
@[simp] theorem withDst_samples (s : State) (d : DecoderState) : (s.withDst d).samples = s.samples := rfl
@[simp] theorem withDst_draws (s : State) (d : DecoderState) : (s.withDst d).draws = s.draws := rfl

@[simp] theorem clearBuf_config (s : State) : (clearBuf s).config = s.config := rfl
@[simp] theorem clearBuf_phase (s : State) : (clearBuf s).phase = s.phase := rfl
@[simp] theorem clearBuf_cfgErr (s : State) : (clearBuf s).cfgErr = s.cfgErr := rfl
@[simp] theorem clearBuf_dst (s : State) : (clearBuf s).dst = s.dst := rfl
@[simp] theorem clearBuf_buf (s : State) : (clearBuf s).buf = s.buf := rfl
@[simp] theorem clearBuf_blen (s : State) : (clearBuf s).blen = 0 := rfl
@[simp] theorem clearBuf_ovf (s : State) : (clearBuf s).ovf = false := rfl
@[simp] theorem clearBuf_dtab (s : State) : (clearBuf s).dtab = s.dtab := rfl
@[simp] theorem clearBuf_xout (s : State) : (clearBuf s).xout = s.xout := rfl
@[simp] theorem clearBuf_yout (s : State) : (clearBuf s).yout = s.yout := rfl
@[simp] theorem clearBuf_trace (s : State) : (clearBuf s).trace = s.trace := rfl
@[simp] theorem clearBuf_outcomes (s : State) : (clearBuf s).outcomes = s.outcomes := rfl
@[simp] theorem clearBuf_edges (s : State) : (clearBuf s).edges = s.edges := rfl
@[simp] theorem clearBuf_samples (s : State) : (clearBuf s).samples = s.samples := rfl
@[simp] theorem clearBuf_draws (s : State) : (clearBuf s).draws = s.draws := rfl

@[simp] theorem ghost_config (s : State) (k : OutcomeCode) : (ghost k s).config = s.config := rfl
@[simp] theorem ghost_phase (s : State) (k : OutcomeCode) : (ghost k s).phase = s.phase := rfl
@[simp] theorem ghost_cfgErr (s : State) (k : OutcomeCode) : (ghost k s).cfgErr = s.cfgErr := rfl
@[simp] theorem ghost_dst (s : State) (k : OutcomeCode) : (ghost k s).dst = s.dst := rfl
@[simp] theorem ghost_buf (s : State) (k : OutcomeCode) : (ghost k s).buf = s.buf := rfl
@[simp] theorem ghost_blen (s : State) (k : OutcomeCode) : (ghost k s).blen = s.blen := rfl
@[simp] theorem ghost_ovf (s : State) (k : OutcomeCode) : (ghost k s).ovf = s.ovf := rfl
@[simp] theorem ghost_dtab (s : State) (k : OutcomeCode) : (ghost k s).dtab = s.dtab := rfl
@[simp] theorem ghost_xout (s : State) (k : OutcomeCode) : (ghost k s).xout = s.xout := rfl
@[simp] theorem ghost_yout (s : State) (k : OutcomeCode) : (ghost k s).yout = s.yout := rfl
@[simp] theorem ghost_trace (s : State) (k : OutcomeCode) : (ghost k s).trace = s.trace := rfl
@[simp] theorem ghost_outcomes (s : State) (k : OutcomeCode) : (ghost k s).outcomes = s.outcomes ++ [k] := rfl
@[simp] theorem ghost_edges (s : State) (k : OutcomeCode) : (ghost k s).edges = s.edges := rfl
@[simp] theorem ghost_samples (s : State) (k : OutcomeCode) : (ghost k s).samples = s.samples := rfl
@[simp] theorem ghost_draws (s : State) (k : OutcomeCode) : (ghost k s).draws = s.draws := rfl

@[simp] theorem emit_config (s : State) (ev : DispatchEvent) : (emit ev s).config = s.config := rfl
@[simp] theorem emit_phase (s : State) (ev : DispatchEvent) : (emit ev s).phase = s.phase := rfl
@[simp] theorem emit_cfgErr (s : State) (ev : DispatchEvent) : (emit ev s).cfgErr = s.cfgErr := rfl
@[simp] theorem emit_dst (s : State) (ev : DispatchEvent) : (emit ev s).dst = s.dst := rfl
@[simp] theorem emit_buf (s : State) (ev : DispatchEvent) : (emit ev s).buf = s.buf := rfl
@[simp] theorem emit_blen (s : State) (ev : DispatchEvent) : (emit ev s).blen = s.blen := rfl
@[simp] theorem emit_ovf (s : State) (ev : DispatchEvent) : (emit ev s).ovf = s.ovf := rfl
@[simp] theorem emit_dtab (s : State) (ev : DispatchEvent) : (emit ev s).dtab = s.dtab := rfl
@[simp] theorem emit_xout (s : State) (ev : DispatchEvent) : (emit ev s).xout = s.xout := rfl
@[simp] theorem emit_yout (s : State) (ev : DispatchEvent) : (emit ev s).yout = s.yout := rfl
@[simp] theorem emit_trace (s : State) (ev : DispatchEvent) : (emit ev s).trace = s.trace ++ [ev] := rfl
@[simp] theorem emit_outcomes (s : State) (ev : DispatchEvent) : (emit ev s).outcomes = s.outcomes := rfl
@[simp] theorem emit_edges (s : State) (ev : DispatchEvent) : (emit ev s).edges = s.edges := rfl
@[simp] theorem emit_samples (s : State) (ev : DispatchEvent) : (emit ev s).samples = s.samples := rfl
@[simp] theorem emit_draws (s : State) (ev : DispatchEvent) : (emit ev s).draws = s.draws := rfl

@[simp] theorem setEntry_config (s : State) (t : Byte) (e : DispatchEntry) : (setEntry t e s).config = s.config := rfl
@[simp] theorem setEntry_phase (s : State) (t : Byte) (e : DispatchEntry) : (setEntry t e s).phase = s.phase := rfl
@[simp] theorem setEntry_cfgErr (s : State) (t : Byte) (e : DispatchEntry) : (setEntry t e s).cfgErr = s.cfgErr := rfl
@[simp] theorem setEntry_dst (s : State) (t : Byte) (e : DispatchEntry) : (setEntry t e s).dst = s.dst := rfl
@[simp] theorem setEntry_buf (s : State) (t : Byte) (e : DispatchEntry) : (setEntry t e s).buf = s.buf := rfl
@[simp] theorem setEntry_blen (s : State) (t : Byte) (e : DispatchEntry) : (setEntry t e s).blen = s.blen := rfl
@[simp] theorem setEntry_ovf (s : State) (t : Byte) (e : DispatchEntry) : (setEntry t e s).ovf = s.ovf := rfl
@[simp] theorem setEntry_dtab (s : State) (t : Byte) (e : DispatchEntry) : (setEntry t e s).dtab = s.dtab.set t.toNat e t.isLt := rfl
@[simp] theorem setEntry_xout (s : State) (t : Byte) (e : DispatchEntry) : (setEntry t e s).xout = s.xout := rfl
@[simp] theorem setEntry_yout (s : State) (t : Byte) (e : DispatchEntry) : (setEntry t e s).yout = s.yout := rfl
@[simp] theorem setEntry_trace (s : State) (t : Byte) (e : DispatchEntry) : (setEntry t e s).trace = s.trace := rfl
@[simp] theorem setEntry_outcomes (s : State) (t : Byte) (e : DispatchEntry) : (setEntry t e s).outcomes = s.outcomes := rfl
@[simp] theorem setEntry_edges (s : State) (t : Byte) (e : DispatchEntry) : (setEntry t e s).edges = s.edges := rfl
@[simp] theorem setEntry_samples (s : State) (t : Byte) (e : DispatchEntry) : (setEntry t e s).samples = s.samples := rfl
@[simp] theorem setEntry_draws (s : State) (t : Byte) (e : DispatchEntry) : (setEntry t e s).draws = s.draws := rfl

@[simp] theorem lockPhase_config (s : State) : (lockPhase s).config = s.config := rfl
@[simp] theorem lockPhase_phase (s : State) : (lockPhase s).phase = if s.cfgErr then .halt else .run := rfl
@[simp] theorem lockPhase_cfgErr (s : State) : (lockPhase s).cfgErr = s.cfgErr := rfl
@[simp] theorem lockPhase_dst (s : State) : (lockPhase s).dst = s.dst := rfl
@[simp] theorem lockPhase_buf (s : State) : (lockPhase s).buf = s.buf := rfl
@[simp] theorem lockPhase_blen (s : State) : (lockPhase s).blen = s.blen := rfl
@[simp] theorem lockPhase_ovf (s : State) : (lockPhase s).ovf = s.ovf := rfl
@[simp] theorem lockPhase_dtab (s : State) : (lockPhase s).dtab = s.dtab := rfl
@[simp] theorem lockPhase_xout (s : State) : (lockPhase s).xout = s.xout := rfl
@[simp] theorem lockPhase_yout (s : State) : (lockPhase s).yout = s.yout := rfl
@[simp] theorem lockPhase_trace (s : State) : (lockPhase s).trace = s.trace := rfl
@[simp] theorem lockPhase_outcomes (s : State) : (lockPhase s).outcomes = s.outcomes := rfl
@[simp] theorem lockPhase_edges (s : State) : (lockPhase s).edges = s.edges := rfl
@[simp] theorem lockPhase_samples (s : State) : (lockPhase s).samples = s.samples := rfl
@[simp] theorem lockPhase_draws (s : State) : (lockPhase s).draws = s.draws := rfl

@[simp] theorem writeOutputs_config (s : State) (x y : OutWord) : (writeOutputs x y s).config = s.config := rfl
@[simp] theorem writeOutputs_phase (s : State) (x y : OutWord) : (writeOutputs x y s).phase = s.phase := rfl
@[simp] theorem writeOutputs_cfgErr (s : State) (x y : OutWord) : (writeOutputs x y s).cfgErr = s.cfgErr := rfl
@[simp] theorem writeOutputs_dst (s : State) (x y : OutWord) : (writeOutputs x y s).dst = s.dst := rfl
@[simp] theorem writeOutputs_buf (s : State) (x y : OutWord) : (writeOutputs x y s).buf = s.buf := rfl
@[simp] theorem writeOutputs_blen (s : State) (x y : OutWord) : (writeOutputs x y s).blen = s.blen := rfl
@[simp] theorem writeOutputs_ovf (s : State) (x y : OutWord) : (writeOutputs x y s).ovf = s.ovf := rfl
@[simp] theorem writeOutputs_dtab (s : State) (x y : OutWord) : (writeOutputs x y s).dtab = s.dtab := rfl
@[simp] theorem writeOutputs_xout (s : State) (x y : OutWord) : (writeOutputs x y s).xout = x := rfl
@[simp] theorem writeOutputs_yout (s : State) (x y : OutWord) : (writeOutputs x y s).yout = y := rfl
@[simp] theorem writeOutputs_trace (s : State) (x y : OutWord) : (writeOutputs x y s).trace = s.trace := rfl
@[simp] theorem writeOutputs_outcomes (s : State) (x y : OutWord) : (writeOutputs x y s).outcomes = s.outcomes := rfl
@[simp] theorem writeOutputs_edges (s : State) (x y : OutWord) : (writeOutputs x y s).edges = s.edges := rfl
@[simp] theorem writeOutputs_samples (s : State) (x y : OutWord) : (writeOutputs x y s).samples = s.samples := rfl
@[simp] theorem writeOutputs_draws (s : State) (x y : OutWord) : (writeOutputs x y s).draws = s.draws := rfl

@[simp] theorem recordSample_config (s : State) : (recordSample s).config = s.config := rfl
@[simp] theorem recordSample_phase (s : State) : (recordSample s).phase = s.phase := rfl
@[simp] theorem recordSample_cfgErr (s : State) : (recordSample s).cfgErr = s.cfgErr := rfl
@[simp] theorem recordSample_dst (s : State) : (recordSample s).dst = s.dst := rfl
@[simp] theorem recordSample_buf (s : State) : (recordSample s).buf = s.buf := rfl
@[simp] theorem recordSample_blen (s : State) : (recordSample s).blen = s.blen := rfl
@[simp] theorem recordSample_ovf (s : State) : (recordSample s).ovf = s.ovf := rfl
@[simp] theorem recordSample_dtab (s : State) : (recordSample s).dtab = s.dtab := rfl
@[simp] theorem recordSample_xout (s : State) : (recordSample s).xout = s.xout := rfl
@[simp] theorem recordSample_yout (s : State) : (recordSample s).yout = s.yout := rfl
@[simp] theorem recordSample_trace (s : State) : (recordSample s).trace = s.trace := rfl
@[simp] theorem recordSample_outcomes (s : State) : (recordSample s).outcomes = s.outcomes := rfl
@[simp] theorem recordSample_edges (s : State) : (recordSample s).edges = s.edges := rfl
@[simp] theorem recordSample_samples (s : State) : (recordSample s).samples = s.samples ++ [statusSample s] := rfl
@[simp] theorem recordSample_draws (s : State) : (recordSample s).draws = s.draws := rfl

@[simp] theorem append_config (s : State) (v : Byte) : (append v s).config = s.config := rfl
@[simp] theorem append_phase (s : State) (v : Byte) : (append v s).phase = s.phase := rfl
@[simp] theorem append_cfgErr (s : State) (v : Byte) : (append v s).cfgErr = s.cfgErr := rfl
@[simp] theorem append_dst (s : State) (v : Byte) : (append v s).dst = s.dst := rfl
@[simp] theorem append_buf (s : State) (v : Byte) : (append v s).buf = if s.blen < s.config.bufCap then s.buf.setIfInBounds s.blen v else s.buf := rfl
@[simp] theorem append_blen (s : State) (v : Byte) : (append v s).blen = if s.blen < s.config.bufCap then s.blen + 1 else s.blen := rfl
@[simp] theorem append_ovf (s : State) (v : Byte) : (append v s).ovf = if s.blen < s.config.bufCap then s.ovf else true := rfl
@[simp] theorem append_dtab (s : State) (v : Byte) : (append v s).dtab = s.dtab := rfl
@[simp] theorem append_xout (s : State) (v : Byte) : (append v s).xout = s.xout := rfl
@[simp] theorem append_yout (s : State) (v : Byte) : (append v s).yout = s.yout := rfl
@[simp] theorem append_trace (s : State) (v : Byte) : (append v s).trace = s.trace := rfl
@[simp] theorem append_outcomes (s : State) (v : Byte) : (append v s).outcomes = s.outcomes := rfl
@[simp] theorem append_edges (s : State) (v : Byte) : (append v s).edges = s.edges := rfl
@[simp] theorem append_samples (s : State) (v : Byte) : (append v s).samples = s.samples := rfl
@[simp] theorem append_draws (s : State) (v : Byte) : (append v s).draws = s.draws := rfl

@[simp] theorem resetBlock_config (s : State) : (resetBlock s).config = s.config := rfl
@[simp] theorem resetBlock_phase (s : State) : (resetBlock s).phase = .config := rfl
@[simp] theorem resetBlock_cfgErr (s : State) : (resetBlock s).cfgErr = false := rfl
@[simp] theorem resetBlock_dst (s : State) : (resetBlock s).dst = .searching := rfl
@[simp] theorem resetBlock_buf (s : State) : (resetBlock s).buf = freeBuffer s.draws := rfl
@[simp] theorem resetBlock_blen (s : State) : (resetBlock s).blen = 0 := rfl
@[simp] theorem resetBlock_ovf (s : State) : (resetBlock s).ovf = false := rfl
@[simp] theorem resetBlock_dtab (s : State) : (resetBlock s).dtab = emptyTable := rfl
@[simp] theorem resetBlock_xout (s : State) : (resetBlock s).xout = 0#32 := rfl
@[simp] theorem resetBlock_yout (s : State) : (resetBlock s).yout = 0#32 := rfl
@[simp] theorem resetBlock_trace (s : State) : (resetBlock s).trace = s.trace := rfl
@[simp] theorem resetBlock_outcomes (s : State) : (resetBlock s).outcomes = s.outcomes := rfl
@[simp] theorem resetBlock_edges (s : State) : (resetBlock s).edges = s.edges := rfl
@[simp] theorem resetBlock_samples (s : State) : (resetBlock s).samples = s.samples := rfl
@[simp] theorem resetBlock_draws (s : State) : (resetBlock s).draws = s.draws + 1 := rfl

@[simp] theorem takeEdge_config (s : State) : (takeEdge s).config = s.config := rfl
@[simp] theorem takeEdge_phase (s : State) : (takeEdge s).phase = s.phase := rfl
@[simp] theorem takeEdge_cfgErr (s : State) : (takeEdge s).cfgErr = s.cfgErr := rfl
@[simp] theorem takeEdge_dst (s : State) : (takeEdge s).dst = s.dst := rfl
@[simp] theorem takeEdge_buf (s : State) : (takeEdge s).buf = s.buf := rfl
@[simp] theorem takeEdge_blen (s : State) : (takeEdge s).blen = s.blen := rfl
@[simp] theorem takeEdge_ovf (s : State) : (takeEdge s).ovf = s.ovf := rfl
@[simp] theorem takeEdge_dtab (s : State) : (takeEdge s).dtab = s.dtab := rfl
@[simp] theorem takeEdge_xout (s : State) : (takeEdge s).xout = s.xout := rfl
@[simp] theorem takeEdge_yout (s : State) : (takeEdge s).yout = s.yout := rfl
@[simp] theorem takeEdge_trace (s : State) : (takeEdge s).trace = s.trace := rfl
@[simp] theorem takeEdge_outcomes (s : State) : (takeEdge s).outcomes = s.outcomes := rfl
@[simp] theorem takeEdge_edges (s : State) : (takeEdge s).edges = s.edges.tail := rfl
@[simp] theorem takeEdge_samples (s : State) : (takeEdge s).samples = s.samples := rfl
@[simp] theorem takeEdge_draws (s : State) : (takeEdge s).draws = s.draws + 1 := rfl

end Sys2Proof.Machine
end

