-- ==== Sys2Proof/Laws/Ops.lean ====
section
/-! SUPPORT. What each shared operation can do, said once: the guard of a meaning, the flags, the Decode Buffer, frame
completion, registration, the MOVE write, and running operations in order. -/

namespace Sys2Proof.Machine

/-! ### The guard of a meaning -/

@[simp] theorem stepWhere_eq_next_iff {p : Prop} [Decidable p] {t u : State} :
    stepWhere p t = .next u ↔ p ∧ u = t := by
  unfold stepWhere
  split <;> simp_all [eq_comm]

theorem stepWhere_of_true {p : Prop} [Decidable p] (h : p) (t : State) : stepWhere p t = .next t := if_pos h

theorem stepWhere_of_false {p : Prop} [Decidable p] (h : ¬ p) (t : State) :
    stepWhere p t = .refused .noSuchStep := if_neg h

/-! ### The flags -/

theorem ovfAfterAppend_of_room {s : State} (h : s.blen < s.config.bufCap) : ovfAfterAppend s = s.ovf := if_pos h

theorem ovfAfterAppend_of_full {s : State} (h : ¬ s.blen < s.config.bufCap) : ovfAfterAppend s = true := if_neg h

@[simp] theorem cfgErrAfterReg_true (s : State) : cfgErrAfterReg s true = true := rfl

@[simp] theorem cfgErrAfterReg_false (s : State) : cfgErrAfterReg s false = s.cfgErr := rfl

/-! ### The Decode Buffer -/

theorem append_of_room {s : State} (h : s.blen < s.config.bufCap) (v : Byte) :
    append v s = { s with buf := s.buf.setIfInBounds s.blen v, blen := s.blen + 1 } := by
  simp [append, ovfAfterAppend, h]

theorem append_of_full {s : State} (h : ¬ s.blen < s.config.bufCap) (v : Byte) :
    append v s = { s with ovf := true } := by
  simp [append, ovfAfterAppend, h]

theorem decodedFrame_length {s : State} (h : s.blen ≤ 256) : (decodedFrame s).length = s.blen := by
  simp [decodedFrame, h]

@[simp] theorem decodedFrame_clearBuf (s : State) : decodedFrame (clearBuf s) = [] := by simp [decodedFrame]

@[simp] theorem decodedFrame_withDst (s : State) (d : DecoderState) : decodedFrame (s.withDst d) = decodedFrame s := rfl

@[simp] theorem decodedFrame_ghost (s : State) (k : OutcomeCode) : decodedFrame (ghost k s) = decodedFrame s := rfl

/-- A byte set at index `n` is the last of the first `n + 1`. -/
theorem take_succ_set {α : Type} (l : List α) (n : Nat) (v : α) (h : n < l.length) :
    (l.set n v).take (n + 1) = l.take n ++ [v] := by
  induction l generalizing n with
  | nil => simp at h
  | cons a l ih => cases n with
    | zero => simp
    | succ n => simpa using ih n (by simpa using h)

/-- Setting the cell behind the decoded frame and counting it adds the byte at the end (20_memory.md R52). -/
theorem take_setIfInBounds (v : Vector Byte 256) (n : Nat) (b : Byte) (h : n < 256) :
    (v.setIfInBounds n b).toList.take (n + 1) = v.toList.take n ++ [b] := by
  have : (v.setIfInBounds n b).toList = v.toList.set n b := by
    simp [Vector.toList, Vector.setIfInBounds]
  rw [this, take_succ_set _ _ _ (by simpa using h)]

/-- The first byte of a decoded frame that is not empty is the tag (30_encoding.md R76). -/
theorem decodedFrame_eq_tag_cons {s : State} (h : 1 ≤ s.blen) :
    decodedFrame s = frameTag s :: framePayload s := by
  have hl : s.buf.toList = s.buf[0] :: s.buf.toList.drop 1 := by
    apply List.ext_getElem
    · simp
    · intro i h1 h2
      cases i <;> simp
  obtain ⟨n, hn⟩ : ∃ n, s.blen = n + 1 := ⟨s.blen - 1, by omega⟩
  simp only [framePayload, decodedFrame, frameTag, hn]
  rw [hl]
  simp

/-! ### Frame completion (41_dispatch.md R140) -/

theorem frameCompletion_of_overflow {s : State} (h : s.ovf = true) : frameCompletion s = dropFrame .dropOvf s := by
  simp [frameCompletion, h]

theorem frameCompletion_of_empty {s : State} (ho : s.ovf = false) (h : s.blen = 0) :
    frameCompletion s = dropFrame .dropEmpty s := by
  simp [frameCompletion, ho, h]

theorem frameCompletion_of_unknown {s : State} (ho : s.ovf = false) (hb : s.blen ≠ 0)
    (h : (entryAt s (frameTag s)).v = false) : frameCompletion s = dropFrame .dropUnknownTag s := by
  simp [frameCompletion, ho, hb, lookup, h]

theorem frameCompletion_of_registered {s : State} (ho : s.ovf = false) (hb : s.blen ≠ 0)
    (h : (entryAt s (frameTag s)).v = true) :
    frameCompletion s = dispatchEnter (entryAt s (frameTag s)).hid s := by
  simp [frameCompletion, ho, hb, lookup, h]

/-- Frame completion drops the frame with one of three codes, or dispatches it; nothing else. -/
theorem frameCompletion_cases (s : State) :
    (∃ k, (k = .dropOvf ∨ k = .dropEmpty ∨ k = .dropUnknownTag) ∧ frameCompletion s = dropFrame k s) ∨
    (s.ovf = false ∧ s.blen ≠ 0 ∧ (entryAt s (frameTag s)).v = true ∧
      frameCompletion s = dispatchEnter (entryAt s (frameTag s)).hid s) := by
  by_cases ho : s.ovf = true
  · exact .inl ⟨_, .inl rfl, frameCompletion_of_overflow ho⟩
  have ho : s.ovf = false := by simpa using ho
  by_cases hb : s.blen = 0
  · exact .inl ⟨_, .inr (.inl rfl), frameCompletion_of_empty ho hb⟩
  by_cases hv : (entryAt s (frameTag s)).v = true
  · exact .inr ⟨ho, hb, hv, frameCompletion_of_registered ho hb hv⟩
  · exact .inl ⟨_, .inr (.inr rfl), frameCompletion_of_unknown ho hb (by simpa using hv)⟩

theorem dropFrame_eq (k : OutcomeCode) (s : State) :
    dropFrame k s = { s with dst := .searching, blen := 0, ovf := false, outcomes := s.outcomes ++ [k] } := rfl

theorem dispatchEnter_eq (h : HandlerId) (s : State) :
    dispatchEnter h s = { s with
      dst := .done, trace := s.trace ++ [frameEvent s h], outcomes := s.outcomes ++ [.dispatched] } := rfl

theorem dispatchReturn_eq (s : State) :
    dispatchReturn s = { s with dst := .searching, blen := 0, ovf := false } := rfl

/-! ### Registration (41_dispatch.md R147) -/

theorem register_of_fresh {s : State} {t : Byte} (h : (entryAt s t).v = false) (k : HandlerId) :
    register t k s = setEntry t { v := true, hid := k } s := by
  simp [register, h, cfgErrAfterReg]

theorem register_of_duplicate {s : State} {t : Byte} (h : (entryAt s t).v = true) (k : HandlerId) :
    register t k s = { s with cfgErr := true, outcomes := s.outcomes ++ [.dupReg] } := by
  simp [register, h, cfgErrAfterReg, ghost]

@[simp] theorem entryAt_setEntry_self (s : State) (t : Byte) (e : DispatchEntry) : entryAt (setEntry t e s) t = e := by
  simp [entryAt, setEntry]

theorem entryAt_setEntry_other (s : State) {t u : Byte} (e : DispatchEntry) (h : t ≠ u) :
    entryAt (setEntry t e s) u = entryAt s u := by
  have : t.toNat ≠ u.toNat := fun hn => h (BitVec.eq_of_toNat_eq hn)
  simp [entryAt, setEntry, this]

/-! ### Operands -/

/-- Under `REF` the escape table is the identity (00_scope.md R7). -/
@[simp] theorem unescape_ref (b : Byte) : unescape Config.ref b = b := by
  simp [unescape, Config.ref]

/-- `XField` at the width of the configuration (30_encoding.md R80). -/
theorem xField_of_moveFb {c : Config} {F : Nat} (h : c.moveFb = F) (p : List Byte) :
    xField c p = extendField c.moveSigned (fieldLE p 0 F) := by
  subst h
  rfl

/-- `YField` at the width of the configuration (30_encoding.md R80). -/
theorem yField_of_moveFb {c : Config} {F : Nat} (h : c.moveFb = F) (p : List Byte) :
    yField c p = extendField c.moveSigned (fieldLE p F F) := by
  subst h
  rfl

/-- `BUF` has a cell for every byte of the largest capacity (00_scope.md R8, log entry 10). -/
theorem room_of_lt {c : Config} (h : c.Legal) {n : Nat} (hn : n < c.bufCap) : n < 256 :=
  Nat.lt_of_lt_of_le hn h.2.1.2

/-- With room, `Append` makes the decoded frame longer by its byte. -/
theorem decodedFrame_append_of_room {s : State} (hl : s.config.Legal) (h : s.blen < s.config.bufCap) (v : Byte) :
    decodedFrame (append v s) = decodedFrame s ++ [v] := by
  rw [append_of_room h]
  exact take_setIfInBounds s.buf s.blen v (room_of_lt hl h)

/-- Without room, `Append` keeps the decoded frame. -/
theorem decodedFrame_append_of_full {s : State} (h : ¬ s.blen < s.config.bufCap) (v : Byte) :
    decodedFrame (append v s) = decodedFrame s := by
  rw [append_of_full h]
  rfl

/-! ### The MOVE write (42_move_handler.md R180, R181) -/

theorem moveWrite_of_long {s : State} (h : 2 * s.config.moveFb ≤ (framePayload s).length) :
    moveWrite s = { s with xout := xField s.config (framePayload s), yout := yField s.config (framePayload s) } :=
  if_pos h

theorem moveWrite_of_short {s : State} (h : ¬ 2 * s.config.moveFb ≤ (framePayload s).length) :
    moveWrite s = s := if_neg h

/-- The MOVE write changes the output pair at most. -/
theorem moveWrite_cases (s : State) : ∃ x y, moveWrite s = { s with xout := x, yout := y } := by
  by_cases h : 2 * s.config.moveFb ≤ (framePayload s).length
  · exact ⟨_, _, moveWrite_of_long h⟩
  · exact ⟨s.xout, s.yout, moveWrite_of_short h⟩

/-! ### Operations in order -/

@[simp] theorem andThen_next {α β : Type} (t : α) (f : α → Host.Outcome β Fault Refusal) : andThen (.next t) f = f t := rfl

theorem andThen_eq_next_iff {α β : Type} {o : Host.Outcome α Fault Refusal} {f : α → Host.Outcome β Fault Refusal}
    {u : β} : andThen o f = .next u ↔ ∃ t, o = .next t ∧ f t = .next u := by
  cases o <;> simp [andThen]

@[simp] theorem execAll_nil (s : State) : execAll [] s = .next s := rfl

@[simp] theorem execAll_cons (i : Instr) (is : List Instr) (s : State) :
    execAll (i :: is) s = andThen (exec i s) (execAll is) := rfl

theorem andThen_assoc {α β γ : Type} (o : Host.Outcome α Fault Refusal) (f : α → Host.Outcome β Fault Refusal)
    (g : β → Host.Outcome γ Fault Refusal) :
    andThen (andThen o f) g = andThen o (fun s => andThen (f s) g) := by
  cases o <;> rfl

theorem execAll_append (is js : List Instr) (s : State) :
    execAll (is ++ js) s = andThen (execAll is s) (execAll js) := by
  induction is generalizing s with
  | nil => rfl
  | cons i is ih =>
    rw [List.cons_append, execAll_cons, execAll_cons, andThen_assoc]
    exact congrArg (andThen (exec i s)) (funext ih)

/-- What holds before a list of operations and is kept by each holds after it. -/
theorem execAll_keeps {P : State → Prop} {is : List Instr} {s t : State}
    (hstep : ∀ i ∈ is, ∀ u v, P u → exec i u = .next v → P v) (hs : P s) (h : execAll is s = .next t) : P t := by
  induction is generalizing s with
  | nil =>
    rw [execAll_nil] at h
    injection h with h
    exact h ▸ hs
  | cons i is ih =>
    obtain ⟨u, hu, hr⟩ := andThen_eq_next_iff.mp h
    exact ih (fun j hj => hstep j (List.mem_cons_of_mem _ hj)) (hstep i List.mem_cons_self s u hs hu) hr

end Sys2Proof.Machine
end

