-- ==== Sys2Proof/Laws/Exec.lean ====
section
/-! SUPPORT. One lemma per meaning: exactly when it answers a next state, and which. -/

namespace Sys2Proof.Machine

theorem execFeedSearchingData_next {b : Byte} {s t : State} :
    exec (.feedSearchingData b) s = .next t ↔ (FeedRow s .searching ∧ ¬ s.config.IsMarker b) ∧ t = s :=
  stepWhere_eq_next_iff

theorem execFeedSearchingEnd_next {s t : State} :
    exec .feedSearchingEnd s = .next t ↔ FeedRow s .searching ∧ t = s := stepWhere_eq_next_iff

theorem execFeedSearchingEsc_next {s t : State} :
    exec .feedSearchingEsc s = .next t ↔ FeedRow s .searching ∧ t = s := stepWhere_eq_next_iff

theorem execFeedSearchingStart_next {s t : State} :
    exec .feedSearchingStart s = .next t ↔ FeedRow s .searching ∧ t = (clearBuf s).withDst .reading :=
  stepWhere_eq_next_iff

theorem execFeedReadingData_next {b : Byte} {s t : State} :
    exec (.feedReadingData b) s = .next t ↔ (FeedRow s .reading ∧ ¬ s.config.IsMarker b) ∧ t = append b s :=
  stepWhere_eq_next_iff

theorem execFeedReadingEsc_next {s t : State} :
    exec .feedReadingEsc s = .next t ↔ FeedRow s .reading ∧ t = s.withDst .readingEscaped := stepWhere_eq_next_iff

theorem execFeedReadingStart_next {s t : State} :
    exec .feedReadingStart s = .next t ↔ FeedRow s .reading ∧ t = clearBuf (ghost .dropTrunc s) :=
  stepWhere_eq_next_iff

theorem execFeedReadingEnd_next {s t : State} :
    exec .feedReadingEnd s = .next t ↔ FeedRow s .reading ∧ t = frameCompletion s := stepWhere_eq_next_iff

theorem execFeedReadingEscapedData_next {b : Byte} {s t : State} :
    exec (.feedReadingEscapedData b) s = .next t ↔
      (FeedRow s .readingEscaped ∧ ¬ s.config.IsMarker b) ∧ t = appendEscaped b s := stepWhere_eq_next_iff

theorem execFeedReadingEscapedEnd_next {s t : State} :
    exec .feedReadingEscapedEnd s = .next t ↔ FeedRow s .readingEscaped ∧ t = appendEscaped s.config.pEnd s :=
  stepWhere_eq_next_iff

theorem execFeedReadingEscapedEsc_next {s t : State} :
    exec .feedReadingEscapedEsc s = .next t ↔ FeedRow s .readingEscaped ∧ t = appendEscaped s.config.pEsc s :=
  stepWhere_eq_next_iff

theorem execFeedReadingEscapedStart_next {s t : State} :
    exec .feedReadingEscapedStart s = .next t ↔ FeedRow s .readingEscaped ∧ t = appendEscaped s.config.pStart s :=
  stepWhere_eq_next_iff

theorem execFeedNotAccepted_next {b : Byte} {s t : State} :
    exec (.feedNotAccepted b) s = .next t ↔ (s.dst = .done ∨ s.phase ≠ .run) ∧ t = s := stepWhere_eq_next_iff

theorem execReg_next {rsv : BitVec 2} {tag : Byte} {hid : HandlerId} {s t : State} :
    exec (.reg rsv tag hid) s = .next t ↔ (if s.phase = .config then register tag hid s else s) = t := by
  simp [exec, execReg]

theorem execLock_next {ign : BitVec 14} {s t : State} :
    exec (.lock ign) s = .next t ↔ (if s.phase = .config then lockPhase s else s) = t := by
  simp [exec, execLock]

theorem execCfgRsv_next {op0 : BitVec 1} {ign : BitVec 14} {s t : State} :
    exec (.cfgRsv op0 ign) s = .next t ↔ s = t := by
  simp [exec, execCfgRsv]

theorem execDack_next {s t : State} :
    exec .dack s = .next t ↔ (s.InDispatch ∧ ¬ AddressedToMove s) ∧ t = dispatchReturn s := stepWhere_eq_next_iff

theorem execMoveExec_next {s t : State} :
    exec .moveExec s = .next t ↔ (s.InDispatch ∧ AddressedToMove s) ∧ t = dispatchReturn (moveWrite s) :=
  stepWhere_eq_next_iff

theorem execReset_next {s t : State} : exec .reset s = .next t ↔ resetBlock s = t := by
  simp [exec, execReset]

theorem execReadOut_next {s t : State} : exec .readOut s = .next t ↔ recordSample s = t := by
  simp [exec, execReadOut]

end Sys2Proof.Machine
end

