-- ==== Sys2Proof/Laws/Feed.lean ====
section
/-! SUPPORT. What one fed byte does in each accepting state, what the end of a dispatch does, and the laws of feeding a
sequence. -/

namespace Sys2Proof.Machine

/-! ### One byte -/

theorem feedByte_searching_start {s : State} (hp : s.phase = .run) (hd : s.dst = .searching) :
    feedByte s.config.pStart s = .next ((clearBuf s).withDst .reading) := by
  unfold feedByte
  rw [decodeRx_searching _ (x := selectCtx s) hp hd, classOf_pStart]
  exact execFeedSearchingStart_next.mpr ⟨⟨hp, hd⟩, rfl⟩

theorem feedByte_searching_noise {s : State} (hp : s.phase = .run) (hd : s.dst = .searching) {b : Byte}
    (hb : b ≠ s.config.pStart) : feedByte b s = .next s := by
  unfold feedByte
  rw [decodeRx_searching _ (x := selectCtx s) hp hd]
  cases hc : classOf s.config b with
  | start => exact absurd hc (by unfold classOf; grind)
  | endMark => exact execFeedSearchingEnd_next.mpr ⟨⟨hp, hd⟩, rfl⟩
  | esc => exact execFeedSearchingEsc_next.mpr ⟨⟨hp, hd⟩, rfl⟩
  | data => exact execFeedSearchingData_next.mpr ⟨⟨⟨hp, hd⟩, (classOf_eq_data_iff _ _).mp hc⟩, rfl⟩

theorem feedByte_reading_data {s : State} (hp : s.phase = .run) (hd : s.dst = .reading) {b : Byte}
    (hb : ¬ s.config.IsMarker b) : feedByte b s = .next (append b s) := by
  unfold feedByte
  rw [decodeRx_reading _ (x := selectCtx s) hp hd, (classOf_eq_data_iff _ _).mpr hb]
  exact execFeedReadingData_next.mpr ⟨⟨⟨hp, hd⟩, hb⟩, rfl⟩

theorem feedByte_reading_esc {s : State} (hl : s.config.Legal) (hp : s.phase = .run) (hd : s.dst = .reading) :
    feedByte s.config.pEsc s = .next (s.withDst .readingEscaped) := by
  unfold feedByte
  rw [decodeRx_reading _ (x := selectCtx s) hp hd, classOf_pEsc hl]
  exact execFeedReadingEsc_next.mpr ⟨⟨hp, hd⟩, rfl⟩

theorem feedByte_reading_start {s : State} (hp : s.phase = .run) (hd : s.dst = .reading) :
    feedByte s.config.pStart s = .next (clearBuf (ghost .dropTrunc s)) := by
  unfold feedByte
  rw [decodeRx_reading _ (x := selectCtx s) hp hd, classOf_pStart]
  exact execFeedReadingStart_next.mpr ⟨⟨hp, hd⟩, rfl⟩

theorem feedByte_reading_end {s : State} (hl : s.config.Legal) (hp : s.phase = .run) (hd : s.dst = .reading) :
    feedByte s.config.pEnd s = .next (frameCompletion s) := by
  unfold feedByte
  rw [decodeRx_reading _ (x := selectCtx s) hp hd, classOf_pEnd hl]
  exact execFeedReadingEnd_next.mpr ⟨⟨hp, hd⟩, rfl⟩

/-- In `READING_ESCAPED` the class of the byte does not matter (30_encoding.md R74). -/
theorem feedByte_escaped {s : State} (hp : s.phase = .run) (hd : s.dst = .readingEscaped) (b : Byte) :
    feedByte b s = .next (appendEscaped b s) := by
  have hc : (classOf s.config b = .data ∧ ¬ s.config.IsMarker b) ∨ (classOf s.config b = .endMark ∧ b = s.config.pEnd) ∨
      (classOf s.config b = .esc ∧ b = s.config.pEsc) ∨ (classOf s.config b = .start ∧ b = s.config.pStart) := by
    unfold classOf
    grind
  unfold feedByte
  rw [decodeRx_escaped _ (x := selectCtx s) hp hd]
  rcases hc with ⟨h, hb⟩ | ⟨h, rfl⟩ | ⟨h, rfl⟩ | ⟨h, rfl⟩ <;> rw [h]
  · exact execFeedReadingEscapedData_next.mpr ⟨⟨⟨hp, hd⟩, hb⟩, rfl⟩
  · exact execFeedReadingEscapedEnd_next.mpr ⟨⟨hp, hd⟩, rfl⟩
  · exact execFeedReadingEscapedEsc_next.mpr ⟨⟨hp, hd⟩, rfl⟩
  · exact execFeedReadingEscapedStart_next.mpr ⟨⟨hp, hd⟩, rfl⟩

/-! ### The end of a dispatch -/

theorem finishDispatch_of_none {s : State} (h : ¬ s.InDispatch) : finishDispatch s = .next s := if_neg h

theorem finishDispatch_of_move {s : State} (h : s.InDispatch) (ha : AddressedToMove s) :
    finishDispatch s = exec .moveExec s := by
  unfold finishDispatch
  rw [if_pos h, if_pos ha]

theorem finishDispatch_of_external {s : State} (h : s.InDispatch) (ha : ¬ AddressedToMove s) :
    finishDispatch s = exec .dack s := by
  unfold finishDispatch
  rw [if_pos h, if_neg ha]

/-- Finishing a dispatch always answers, and no dispatch is in progress after it. -/
theorem finishDispatch_next (s : State) : ∃ t, finishDispatch s = .next t ∧ ¬ t.InDispatch ∧ t.phase = s.phase := by
  by_cases h : s.InDispatch
  · by_cases ha : AddressedToMove s
    · obtain ⟨x, y, hm⟩ := moveWrite_cases s
      refine ⟨_, (finishDispatch_of_move h ha).trans (execMoveExec_next.mpr ⟨⟨h, ha⟩, rfl⟩), ?_, ?_⟩ <;>
        rw [hm, dispatchReturn_eq]
      simp
    · exact ⟨_, (finishDispatch_of_external h ha).trans (execDack_next.mpr ⟨⟨h, ha⟩, rfl⟩),
        by simp [dispatchReturn_eq], rfl⟩
  · exact ⟨s, finishDispatch_of_none h, h, rfl⟩

/-! ### Sequences -/

@[simp] theorem andThen_consumed {α : Type} (s : State) (f : Fed → Host.Outcome α Fault Refusal) :
    andThen (consumed s) f = f { block := s, waiting := [] } := rfl

@[simp] theorem consumed_inj {s t : State} : consumed s = consumed t ↔ s = t := by simp [consumed]

@[simp] theorem feedAll_nil (s : State) : feedAll [] s = consumed s := rfl

theorem feedAll_cons_of_accepts {s : State} (h : s.Accepts) (b : Byte) (bs : List Byte) :
    feedAll (b :: bs) s = andThen (feedByte b s) (feedAll bs) := if_pos h

/-- A byte offered while the port is closed waits, and so do the bytes behind it (40_feed.md R115, R116). -/
theorem feedAll_cons_of_closed {s : State} (h : ¬ s.Accepts) (b : Byte) (bs : List Byte) :
    feedAll (b :: bs) s = .next { block := s, waiting := b :: bs } := if_neg h

/-- Where every byte of `g` is consumed, feeding `g` and then `h` is feeding `h` from the state that `g` leaves. -/
theorem feedAll_append_of_consumed {g : List Byte} {s t : State} (hg : feedAll g s = consumed t) (h : List Byte) :
    feedAll (g ++ h) s = feedAll h t := by
  induction g generalizing s with
  | nil =>
    rw [consumed_inj.mp hg]
    rfl
  | cons b g ih =>
    by_cases ha : s.Accepts
    · rw [feedAll_cons_of_accepts ha] at hg
      obtain ⟨u, hu, hr⟩ := andThen_eq_next_iff.mp hg
      rw [List.cons_append, feedAll_cons_of_accepts ha, hu]
      exact ih hr
    · rw [feedAll_cons_of_closed ha] at hg
      simp [consumed] at hg

@[simp] theorem deliverAll_nil (s : State) : deliverAll [] s = andThen (finishDispatch s) consumed := rfl

/-- In a state that accepts no dispatch is in progress, so the byte is fed at once. -/
theorem deliverAll_cons_of_accepts {s : State} (h : s.Accepts) (b : Byte) (bs : List Byte) :
    deliverAll (b :: bs) s = andThen (feedByte b s) (deliverAll bs) := by
  have hn : ¬ s.InDispatch := fun hd => h.2 hd.2
  unfold deliverAll
  rw [finishDispatch_of_none hn]
  exact if_pos h

/-- The dispatch in progress is finished first. -/
theorem deliverAll_of_finished {s t : State} (h : finishDispatch s = .next t) (bs : List Byte) :
    deliverAll bs s = deliverAll bs t := by
  obtain ⟨u, hu, hn, -⟩ := finishDispatch_next s
  obtain rfl : u = t := by
    rw [hu] at h
    injection h
  cases bs <;> unfold deliverAll <;> rw [hu, finishDispatch_of_none hn]

/-- Where feeding consumes every byte with no other agent acting, delivering differs by the dispatch finished at the end. -/
theorem deliverAll_of_feedAll {bs : List Byte} {s t : State} (h : feedAll bs s = consumed t) :
    deliverAll bs s = andThen (finishDispatch t) consumed := by
  induction bs generalizing s with
  | nil =>
    rw [consumed_inj.mp h]
    rfl
  | cons b bs ih =>
    by_cases ha : s.Accepts
    · rw [feedAll_cons_of_accepts ha] at h
      obtain ⟨u, hu, hr⟩ := andThen_eq_next_iff.mp h
      rw [deliverAll_cons_of_accepts ha, hu]
      exact ih hr
    · rw [feedAll_cons_of_closed ha] at h
      simp [consumed] at h

/-- One item of the frame grammar, fed in `READING`, appends its value (30_encoding.md R75). -/
theorem feedAll_itemBytes {s : State} (hl : s.config.Legal) (hp : s.phase = .run) (hd : s.dst = .reading) {it : WireItem}
    (hi : itemLegal s.config it = true) :
    feedAll (itemBytes s.config it) s = consumed (append (itemValue s.config it) s) := by
  have ha : s.Accepts := ⟨hp, by simp [hd]⟩
  cases it with
  | plain b =>
    simp only [itemLegal, decide_eq_true_eq] at hi
    rw [itemBytes, feedAll_cons_of_accepts ha, feedByte_reading_data hp hd hi]
    rfl
  | escaped b =>
    have he : (s.withDst .readingEscaped).Accepts := ⟨hp, by simp⟩
    rw [itemBytes, feedAll_cons_of_accepts ha, feedByte_reading_esc hl hp hd, andThen_next, feedAll_cons_of_accepts he,
      feedByte_escaped (s := s.withDst .readingEscaped) hp rfl]
    simp only [andThen_next, feedAll_nil, consumed_inj, itemValue]
    show { append (unescape s.config b) s with dst := .reading } = _
    rw [← hd]
    rfl

end Sys2Proof.Machine
end

