-- ==== Sys2Proof/Laws/PerInstr.lean ====
section
/-! SUPPORT. The per-instruction family `EncodedPort`: the encoder puts each operation on the port that the "format" column
of spec/opcode_table.json names. -/

namespace Sys2Proof.Laws.EncodedPort

/-- The encoding of `i` stands on the port of `i`'s row, under every configuration. -/
def Statement (i : Instr) : Prop := ∀ c : Config, (encode c i).port = i.format

theorem feedSearchingData (b : Byte) : Statement (.feedSearchingData b) := fun _ => rfl
theorem feedSearchingEnd : Statement .feedSearchingEnd := fun _ => rfl
theorem feedSearchingEsc : Statement .feedSearchingEsc := fun _ => rfl
theorem feedSearchingStart : Statement .feedSearchingStart := fun _ => rfl
theorem feedReadingData (b : Byte) : Statement (.feedReadingData b) := fun _ => rfl
theorem feedReadingEsc : Statement .feedReadingEsc := fun _ => rfl
theorem feedReadingStart : Statement .feedReadingStart := fun _ => rfl
theorem feedReadingEnd : Statement .feedReadingEnd := fun _ => rfl
theorem feedReadingEscapedData (b : Byte) : Statement (.feedReadingEscapedData b) := fun _ => rfl
theorem feedReadingEscapedEnd : Statement .feedReadingEscapedEnd := fun _ => rfl
theorem feedReadingEscapedEsc : Statement .feedReadingEscapedEsc := fun _ => rfl
theorem feedReadingEscapedStart : Statement .feedReadingEscapedStart := fun _ => rfl
theorem feedNotAccepted (b : Byte) : Statement (.feedNotAccepted b) := fun _ => rfl
theorem reg (rsv : BitVec 2) (tag : Byte) (hid : HandlerId) : Statement (.reg rsv tag hid) := fun _ => rfl
theorem lock (ign : BitVec 14) : Statement (.lock ign) := fun _ => rfl
theorem cfgRsv (op0 : BitVec 1) (ign : BitVec 14) : Statement (.cfgRsv op0 ign) := fun _ => rfl
theorem dack : Statement .dack := fun _ => rfl
theorem moveExec : Statement .moveExec := fun _ => rfl
theorem reset : Statement .reset := fun _ => rfl
theorem readOut : Statement .readOut := fun _ => rfl

end Sys2Proof.Laws.EncodedPort
end

