-- ==== Sys2Proof/Laws/Step.lean ====
section
/-! SUPPORT. What one edge selects and what one step runs, said once. -/

namespace Sys2Proof.Machine

@[simp] theorem decodeOp_rx (c : Config) (x : SelectCtx) (b : Byte) : decodeOp c x (.rx b) = some (decodeRx c x b) := rfl

@[simp] theorem decodeOp_cfg (c : Config) (x : SelectCtx) (w : CfgWord) : decodeOp c x (.cfg w) = some (decodeCfg w) := rfl

@[simp] theorem decodeOp_rst (c : Config) (x : SelectCtx) : decodeOp c x .rst = some .reset := rfl

@[simp] theorem decodeOp_status (c : Config) (x : SelectCtx) : decodeOp c x .status = some .readOut := rfl

theorem decodeOp_dsp (s : State) :
    decodeOp s.config (selectCtx s) .dsp = if s.InDispatch ∧ ¬ AddressedToMove s then some .dack else none := by
  by_cases h : s.InDispatch ∧ ¬ AddressedToMove s
  · obtain ⟨⟨hp, hd⟩, ha⟩ := h
    simp [decodeOp, decode, selectCtx, hp, hd, ha]
  · rw [if_neg h]
    simp only [decodeOp, decode, selectCtx, decide_eq_false_iff_not]
    rw [if_neg (by tauto)]

theorem decodeOp_internal (s : State) :
    decodeOp s.config (selectCtx s) .internal = if s.InDispatch ∧ AddressedToMove s then some .moveExec else none := by
  by_cases h : s.InDispatch ∧ AddressedToMove s
  · rw [if_pos h]
    simp only [decodeOp, decode, selectCtx, decide_eq_true_eq]
    rw [if_pos (by tauto)]
  · rw [if_neg h]
    simp only [decodeOp, decode, selectCtx, decide_eq_true_eq]
    rw [if_neg (by tauto)]

/-- With `rst = 1`: `RESET` alone, after the reader's sample. -/
theorem edgeOps_of_reset (s : State) {e : Edge} (h : e.rst = true) :
    edgeOps s e = (if e.sample then [.readOut] else []) ++ [.reset] := by
  cases hs : e.sample <;> simp [edgeOps, edgeWords, h, hs]

/-- The operation of an offered byte. -/
def rxOps (s : State) : Option Byte → List Instr
  | none => []
  | some b => [decodeRx s.config (selectCtx s) b]

/-- The operation by which the dispatch in progress ends at this edge. -/
def handlerOps (s : State) (dspReady : Bool) : List Instr :=
  if s.InDispatch then
    if AddressedToMove s then [.moveExec] else if dspReady then [.dack] else []
  else []

theorem handlerOps_of_move {s : State} (hd : s.InDispatch) (ha : AddressedToMove s) (r : Bool) :
    handlerOps s r = [.moveExec] := by
  unfold handlerOps
  rw [if_pos hd, if_pos ha]

theorem handlerOps_of_external {s : State} (hd : s.InDispatch) (ha : ¬ AddressedToMove s) (r : Bool) :
    handlerOps s r = if r then [.dack] else [] := by
  unfold handlerOps
  rw [if_pos hd, if_neg ha]

theorem handlerOps_of_none {s : State} (hd : ¬ s.InDispatch) (r : Bool) : handlerOps s r = [] := if_neg hd

/-- The operation of a configuration word. -/
def cfgOps : Option CfgWord → List Instr
  | none => []
  | some w => [decodeCfg w]

/-- With `rst = 0`: the sample, the offered byte, the handler's end of the dispatch, the configuration word. -/
theorem edgeOps_of_run (s : State) {e : Edge} (h : e.rst = false) :
    edgeOps s e = (if e.sample then [.readOut] else []) ++ (rxOps s e.rx ++ (handlerOps s e.dspReady ++ cfgOps e.cfg)) := by
  have hdsp : decodeOp s.config (selectCtx s) .dsp = if s.InDispatch then
      if AddressedToMove s then none else some .dack else none := by
    rw [decodeOp_dsp]
    split_ifs <;> tauto
  have hint : decodeOp s.config (selectCtx s) .internal = if s.InDispatch then
      if AddressedToMove s then some .moveExec else none else none := by
    rw [decodeOp_internal]
    split_ifs <;> tauto
  obtain ⟨r, rx, cf, dr, sm⟩ := e
  subst h
  cases rx <;> cases cf <;> cases dr <;> cases sm <;>
    simp only [edgeOps, edgeWords, rxOps, handlerOps, cfgOps, List.filterMap_append, List.filterMap_cons, List.filterMap_nil,
      decodeOp_rx, decodeOp_cfg, decodeOp_status, hdsp, hint, Bool.false_eq_true, if_true, if_false] <;> split_ifs <;> rfl

theorem step_of_legal {s : State} (h : s.config.Legal) : step s = execAll (edgeOps s (nextEdge s)) (takeEdge s) := if_pos h

theorem step_eq_next_iff {s t : State} :
    step s = .next t ↔ s.config.Legal ∧ execAll (edgeOps s (nextEdge s)) (takeEdge s) = .next t := by
  unfold step
  split
  · exact ⟨fun h => ⟨‹_›, h⟩, fun h => h.2⟩
  · exact ⟨fun h => by simp at h, fun h => absurd h.1 ‹_›⟩

theorem execAll_singleton (i : Instr) (s : State) : execAll [i] s = exec i s := by
  rw [execAll_cons]
  cases exec i s <;> rfl

/-- Outside `CONFIG` a configuration word has no effect (41_dispatch.md R147, R148, R150). -/
theorem exec_cfg_of_locked {i : Instr} {s : State} (hi : i.format = .cfg) (h : s.phase ≠ .config) : exec i s = .next s := by
  cases i <;> simp [Instr.format] at hi <;> simp [exec, execReg, execLock, execCfgRsv, h]

@[simp] theorem decodeCfg_format (w : CfgWord) : (decodeCfg w).format = .cfg := by
  unfold decodeCfg
  split
  · rfl
  · split <;> rfl

@[simp] theorem decodeRx_format (c : Config) (x : SelectCtx) (b : Byte) : (decodeRx c x b).format = .rx := by
  unfold decodeRx
  split
  · split <;> cases classOf c b <;> rfl
  · rfl

/-- The row selected for a byte is a step in the state that selects it (40_feed.md R100, R115, R116). -/
theorem exec_decodeRx_next (s : State) (b : Byte) :
    ∃ t, exec (decodeRx s.config (selectCtx s) b) s = .next t := by
  by_cases hp : s.phase = .run
  · have hdata := classOf_eq_data_iff s.config b
    cases hd : s.dst
    case done => exact ⟨s, by rw [decodeRx_of_closed _ (.inl hd)]; exact execFeedNotAccepted_next.mpr ⟨.inl hd, rfl⟩⟩
    case searching =>
      rw [decodeRx_searching _ hp hd]
      cases hc : classOf s.config b
      case data => exact ⟨_, execFeedSearchingData_next.mpr ⟨⟨⟨hp, hd⟩, hdata.mp hc⟩, rfl⟩⟩
      all_goals exact ⟨_, stepWhere_of_true ⟨hp, hd⟩ _⟩
    case reading =>
      rw [decodeRx_reading _ hp hd]
      cases hc : classOf s.config b
      case data => exact ⟨_, execFeedReadingData_next.mpr ⟨⟨⟨hp, hd⟩, hdata.mp hc⟩, rfl⟩⟩
      all_goals exact ⟨_, stepWhere_of_true ⟨hp, hd⟩ _⟩
    case readingEscaped =>
      rw [decodeRx_escaped _ hp hd]
      cases hc : classOf s.config b
      case data => exact ⟨_, execFeedReadingEscapedData_next.mpr ⟨⟨⟨hp, hd⟩, hdata.mp hc⟩, rfl⟩⟩
      all_goals exact ⟨_, stepWhere_of_true ⟨hp, hd⟩ _⟩
  · exact ⟨s, by rw [decodeRx_of_closed _ (.inr hp)]; exact execFeedNotAccepted_next.mpr ⟨.inr hp, rfl⟩⟩

theorem takeEdge_of_cons {s : State} {e : Edge} {rest : List Edge} (h : s.edges = e :: rest) :
    takeEdge s = { s with edges := rest, draws := s.draws + 1 } := by simp [takeEdge, h]

theorem nextEdge_of_cons {s : State} {e : Edge} {rest : List Edge} (h : s.edges = e :: rest) : nextEdge s = e := by
  simp [nextEdge, h]

end Sys2Proof.Machine
end

