-- ==== Sys2Proof/Laws/Run.lean ====
section
/-! SUPPORT. What one edge without reset runs, and what one slot of a byte source does to the block and to the bytes. -/

namespace Sys2Proof.Machine

@[simp] theorem runFor_zero (s : State) : runFor 0 s = .next s := rfl

@[simp] theorem runFor_succ (n : Nat) (s : State) : runFor (n + 1) s = andThen (step s) (runFor n) := rfl

@[simp] theorem runSlots_nil (bs : List Byte) (s : State) : runSlots [] bs s = .next { block := s, waiting := bs } := rfl

@[simp] theorem runSlots_cons (k : Slot) (ks : List Slot) (bs : List Byte) (s : State) :
    runSlots (k :: ks) bs s = andThen (step (presentEdge (slotEdge k bs) s)) (runSlots ks (heldAfter k bs s)) := rfl

/-- A slot that offers nothing, without `dsp_ready`, is an idle edge. -/
@[simp] theorem slotEdge_gap (bs : List Byte) : slotEdge { offers := false, dspReady := false } bs = Edge.idle := rfl

@[simp] theorem takeEdge_presentEdge (e : Edge) (s : State) :
    takeEdge (presentEdge e s) = { s with draws := s.draws + 1 } := rfl

@[simp] theorem nextEdge_presentEdge (e : Edge) (s : State) : nextEdge (presentEdge e s) = e := rfl

/-- A step at an edge without reset, without a configuration word and without a sample. -/
theorem step_of_plain {s : State} {e : Edge} (hl : s.config.Legal) (he : nextEdge s = e) (hr : e.rst = false)
    (hc : e.cfg = none) (hs : e.sample = false) :
    step s = execAll (rxOps s e.rx ++ handlerOps s e.dspReady) (takeEdge s) := by
  rw [step_of_legal hl, he, edgeOps_of_run s hr, hc, hs]
  simp [cfgOps]

/-- The end of a dispatch does not depend on the draw counter. -/
theorem finishDispatch_draws {s t : State} (h : finishDispatch s = .next t) (n : Nat) :
    finishDispatch { s with draws := n } = .next { t with draws := n } := by
  by_cases hd : s.InDispatch
  · by_cases ha : AddressedToMove s
    · rw [finishDispatch_of_move hd ha] at h
      obtain ⟨-, rfl⟩ := execMoveExec_next.mp h
      rw [finishDispatch_of_move (s := { s with draws := n }) hd ha, execMoveExec_next]
      refine ⟨⟨hd, ha⟩, ?_⟩
      unfold moveWrite
      split_ifs <;> first | rfl | contradiction
    · rw [finishDispatch_of_external hd ha] at h
      obtain ⟨-, rfl⟩ := execDack_next.mp h
      rw [finishDispatch_of_external (s := { s with draws := n }) hd ha, execDack_next]
      exact ⟨⟨hd, ha⟩, rfl⟩
  · rw [finishDispatch_of_none hd] at h
    injection h with h
    subst h
    exact finishDispatch_of_none hd

end Sys2Proof.Machine
end

