-- ==== Sys2Proof/Tests/Slice0.lean ====
section
/-! SUPPORT. Tests with results taken from the spec (95_test_vectors.md where a vector is named), and one witness for the
hypotheses of each statement. -/

set_option Elab.async false

namespace Sys2Proof.Tests

open Sys2Proof.Machine

/-! ### Small states -/

/-- The bytes, and zeros behind them. -/
def padded (n : Nat) (l : List Byte) : Vector Byte n := ⟨((l ++ List.replicate n 0#8).take n).toArray, by simp⟩

/-- The table of the reference registration (00_scope.md R9): `02` to 0, `01` to 1, `00` to 2. -/
def s0Table : Vector DispatchEntry 256 :=
  ((emptyTable.set 0 { v := true, hid := 2#4 }).set 1 { v := true, hid := 1#4 }).set 2 { v := true, hid := 0#4 }

/-- A state in phase `RUN` under the `S0` table, with `XOUT = AA` and `YOUT = BB` so that "no write" shows. -/
def running (c : Config) (d : DecoderState) (bytes : List Byte) : State :=
  { State.resetWith c with
    phase := .run, dst := d, buf := padded 256 bytes, blen := bytes.length, dtab := s0Table
    xout := 0xAA#32, yout := 0xBB#32 }

/-- A state under `REF`. -/
def frame (d : DecoderState) (bytes : List Byte) : State := running Config.ref d bytes

/-- `BUF_CAP = 3`. -/
def tiny : Config := { Config.ref with bufCap := 3 }

/-- Full and overflown under `tiny`. -/
def overflown (first : Byte) : State := { running tiny .reading [first, 0x05#8, 0x07#8] with ovf := true }

/-- The halted block. -/
def halted : State := { State.reset with phase := .halt, cfgErr := true }

/-- In `CONFIG` with the `S0` table registered. -/
def registering : State := { State.reset with dtab := s0Table }

/-- `s` with one edge to come. -/
def atEdge (e : Edge) (s : State) : State := { s with edges := [e] }

/-- The outcome is a next state of which `p` holds. -/
def answers (o : Host.Outcome State Fault Refusal) (p : State → Bool) : Bool :=
  match o with
  | .next t => p t
  | .fault _ => false
  | .refused _ => false

/-- Every byte is consumed, and `p` holds of the block. -/
def feeds (o : Host.Outcome Fed Fault Refusal) (p : State → Bool) : Bool :=
  match o with
  | .next f => f.waiting.isEmpty && p f.block
  | .fault _ => false
  | .refused _ => false

/-- The outcome is this refusal. -/
def refuses (o : Host.Outcome State Fault Refusal) (r : Refusal) : Bool :=
  match o with
  | .next _ => false
  | .fault _ => false
  | .refused q => decide (q = r)

/-- `DST` and the decoded frame. -/
def holds (d : DecoderState) (bytes : List Byte) (t : State) : Bool := decide (t.dst = d ∧ decodedFrame t = bytes)

/-! ### Well-formedness -/

theorem test_wellFormed_refuses_marker_in_searching_data :
    (Instr.feedSearchingData 0x40#8).wellFormed Config.ref = false ∧
    (Instr.feedSearchingData 0x41#8).wellFormed Config.ref = false ∧
    (Instr.feedSearchingData 0x42#8).wellFormed Config.ref = false := by decide

theorem test_wellFormed_refuses_marker_in_reading_data :
    (Instr.feedReadingData 0x40#8).wellFormed Config.ref = false ∧
    (Instr.feedReadingData 0x41#8).wellFormed Config.ref = false ∧
    (Instr.feedReadingData 0x42#8).wellFormed Config.ref = false := by decide

theorem test_wellFormed_refuses_marker_in_escaped_data :
    (Instr.feedReadingEscapedData 0x40#8).wellFormed Config.ref = false ∧
    (Instr.feedReadingEscapedData 0x41#8).wellFormed Config.ref = false ∧
    (Instr.feedReadingEscapedData 0x42#8).wellFormed Config.ref = false := by decide

theorem test_wellFormed_accepts_other_bytes :
    (Instr.feedReadingData 0x3F#8).wellFormed Config.ref = true ∧
    (Instr.feedReadingData 0x43#8).wellFormed Config.ref = true := by decide

/-- 00_scope.md R8: one configuration against each constraint, and the ends of the capacity range. -/
theorem test_illegal_configurations :
    ¬ ({ Config.ref with pEnd := 0x40#8 }).Legal ∧ ¬ ({ Config.ref with pEsc := 0x40#8 }).Legal ∧
    ¬ ({ Config.ref with pEsc := 0x41#8 }).Legal ∧ ¬ ({ Config.ref with bufCap := 0 }).Legal ∧
    ¬ ({ Config.ref with bufCap := 257 }).Legal ∧ ¬ ({ Config.ref with moveFb := 3 }).Legal ∧
    ¬ ({ Config.ref with hidMove := 16 }).Legal ∧ ({ Config.ref with bufCap := 1 }).Legal ∧
    ({ Config.ref with bufCap := 256, hidMove := 15 }).Legal := by
  refine ⟨?_, ?_, ?_, ?_, ?_, ?_, ?_, ?_, ?_⟩ <;> decide

/-- 00_scope.md R8: the step of such a block is refused. -/
theorem test_step_refuses_illegal_configuration :
    refuses (step { State.reset with config := { Config.ref with bufCap := 0 } }) .configRejected = true ∧
    refuses (step { State.reset with config := { Config.ref with moveFb := 3 } }) .configRejected = true := by
  decide +kernel

/-! ### Decoding: every row's word, bit by bit from opcode_table.json -/

/-- The accepting context of a decoder state. -/
def accepting (d : DecoderState) : SelectCtx := { phase := .run, dst := d, builtin := false }

theorem test_decode_searching_data :
    decode Config.ref (accepting .searching) (.rx 0b01010101#8) = .ok (.feedSearchingData 0x55#8) := rfl
theorem test_decode_searching_end :
    decode Config.ref (accepting .searching) (.rx 0b01000001#8) = .ok .feedSearchingEnd := rfl
theorem test_decode_searching_esc :
    decode Config.ref (accepting .searching) (.rx 0b01000010#8) = .ok .feedSearchingEsc := rfl
theorem test_decode_searching_start :
    decode Config.ref (accepting .searching) (.rx 0b01000000#8) = .ok .feedSearchingStart := rfl
theorem test_decode_reading_data :
    decode Config.ref (accepting .reading) (.rx 0b01000011#8) = .ok (.feedReadingData 0x43#8) := rfl
theorem test_decode_reading_esc :
    decode Config.ref (accepting .reading) (.rx 0b01000010#8) = .ok .feedReadingEsc := rfl
theorem test_decode_reading_start :
    decode Config.ref (accepting .reading) (.rx 0b01000000#8) = .ok .feedReadingStart := rfl
theorem test_decode_reading_end :
    decode Config.ref (accepting .reading) (.rx 0b01000001#8) = .ok .feedReadingEnd := rfl
theorem test_decode_escaped_data :
    decode Config.ref (accepting .readingEscaped) (.rx 0b00111111#8) = .ok (.feedReadingEscapedData 0x3F#8) := rfl
theorem test_decode_escaped_end :
    decode Config.ref (accepting .readingEscaped) (.rx 0b01000001#8) = .ok .feedReadingEscapedEnd := rfl
theorem test_decode_escaped_esc :
    decode Config.ref (accepting .readingEscaped) (.rx 0b01000010#8) = .ok .feedReadingEscapedEsc := rfl
theorem test_decode_escaped_start :
    decode Config.ref (accepting .readingEscaped) (.rx 0b01000000#8) = .ok .feedReadingEscapedStart := rfl
theorem test_decode_not_accepted :
    decode Config.ref (accepting .done) (.rx 0b01000000#8) = .ok (.feedNotAccepted 0x40#8) ∧
    decode Config.ref (selectCtx State.reset) (.rx 0b01000000#8) = .ok (.feedNotAccepted 0x40#8) := ⟨rfl, rfl⟩
theorem test_decode_reg :
    decode Config.ref tableCtx (.cfg 0b00_00_00000101_0011#16) = .ok (.reg 0b00#2 0x05#8 0x3#4) ∧
    decode Config.ref tableCtx (.cfg 0b00_11_00000010_0101#16) = .ok (.reg 0b11#2 0x02#8 0x5#4) := ⟨rfl, rfl⟩
theorem test_decode_lock :
    decode Config.ref tableCtx (.cfg 0b01_00000000000000#16) = .ok (.lock 0#14) ∧
    decode Config.ref tableCtx (.cfg 0b01_11111111111111#16) = .ok (.lock 0x3FFF#14) := ⟨rfl, rfl⟩
theorem test_decode_cfgRsv :
    decode Config.ref tableCtx (.cfg 0b10_00000000000000#16) = .ok (.cfgRsv 0#1 0#14) ∧
    decode Config.ref tableCtx (.cfg 0b11_11111100101111#16) = .ok (.cfgRsv 1#1 0x3F2F#14) := ⟨rfl, rfl⟩
theorem test_decode_control_rows :
    decode Config.ref (accepting .done) .dsp = .ok .dack ∧
    decode Config.ref { accepting .done with builtin := true } .internal = .ok .moveExec ∧
    decode Config.ref tableCtx .rst = .ok .reset ∧ decode Config.ref tableCtx .status = .ok .readOut :=
  ⟨rfl, rfl, rfl, rfl⟩
theorem test_decode_rejects :
    decode Config.ref (accepting .reading) .dsp = .error .dspReadyIgnored ∧
    decode Config.ref { accepting .done with builtin := true } .dsp = .error .dspReadyIgnored ∧
    decode Config.ref (accepting .done) .internal = .error .noInternalStep ∧
    decodeBytes Config.ref tableCtx [0x20#8, 0x00#8, 0x00#8] = .error (.wordLength 3) ∧
    decodeBytes Config.ref tableCtx [0x20#8, 0x00#8] = .ok (.reg 0b00#2 0x02#8 0x0#4) := ⟨rfl, rfl, rfl, rfl, rfl⟩
theorem test_decodeTableWord :
    decodeTableWord 8 0x40 = some .feedSearchingStart ∧ decodeTableWord 16 0x0020 = some (.reg 0#2 0x02#8 0#4) ∧
    decodeTableWord 16 0x8000 = some (.cfgRsv 0#1 0#14) ∧ decodeTableWord 24 0 = none := ⟨rfl, rfl, rfl, rfl⟩

/-! ### FEED -/

/-- V1, V2, V3. -/
theorem test_noise_in_searching :
    exec (.feedSearchingData 0x55#8) (frame .searching []) = .next (frame .searching []) ∧
    exec .feedSearchingEnd (frame .searching []) = .next (frame .searching []) ∧
    exec .feedSearchingEsc (frame .searching []) = .next (frame .searching []) := ⟨rfl, rfl, rfl⟩

/-- V4. -/
theorem test_start_in_searching :
    answers (exec .feedSearchingStart (frame .searching [])) (holds .reading []) = true := by decide +kernel

/-- V6. -/
theorem test_data_in_reading :
    answers (exec (.feedReadingData 0x07#8) (frame .reading [0x02#8, 0x05#8]))
      (holds .reading [0x02#8, 0x05#8, 0x07#8]) = true := by decide +kernel

/-- V19, with `BUF_CAP = 3`. -/
theorem test_data_in_full_buffer :
    answers (exec (.feedReadingData 0x33#8) (running tiny .reading [0x02#8, 0x05#8, 0x07#8]))
      (fun t => holds .reading [0x02#8, 0x05#8, 0x07#8] t && t.ovf) = true := by decide +kernel

/-- V7. -/
theorem test_esc_in_reading :
    answers (exec .feedReadingEsc (frame .reading [0x01#8])) (holds .readingEscaped [0x01#8]) = true := by
  decide +kernel

/-- V8 and V23. -/
theorem test_start_in_reading :
    answers (exec .feedReadingStart (frame .reading [0x02#8, 0x09#8]))
      (fun t => holds .reading [] t && decide (t.outcomes = [.dropTrunc])) = true ∧
    answers (exec .feedReadingStart (overflown 0x02#8)) (fun t => holds .reading [] t && !t.ovf) = true := by
  decide +kernel

/-- V10, V11 and V22. -/
theorem test_end_in_reading_drops :
    answers (exec .feedReadingEnd (frame .reading []))
      (fun t => holds .searching [] t && decide (t.outcomes = [.dropEmpty])) = true ∧
    answers (exec .feedReadingEnd (frame .reading [0x09#8, 0x01#8]))
      (fun t => holds .searching [] t && decide (t.outcomes = [.dropUnknownTag])) = true ∧
    answers (exec .feedReadingEnd (overflown 0x77#8))
      (fun t => holds .searching [] t && !t.ovf && decide (t.outcomes = [.dropOvf])) = true := by decide +kernel

/-- V12. -/
theorem test_end_in_reading_dispatches :
    answers (exec .feedReadingEnd (frame .reading [0x02#8, 0x05#8, 0x07#8])) (fun t =>
      holds .done [0x02#8, 0x05#8, 0x07#8] t && decide (t.outcomes = [.dispatched]) &&
      decide (t.trace = [{ tag := 0x02#8, hid := 0#4, payload := [0x05#8, 0x07#8] }])) = true := by decide +kernel

/-- V16, and the same byte under an escape table that maps `00` to `40`. -/
theorem test_escaped_data :
    answers (exec (.feedReadingEscapedData 0x00#8) (frame .readingEscaped [0x01#8]))
      (holds .reading [0x01#8, 0x00#8]) = true ∧
    answers (exec (.feedReadingEscapedData 0x00#8)
        (running { Config.ref with unesc := padded 256 [0x40#8] } .readingEscaped [0x01#8]))
      (holds .reading [0x01#8, 0x40#8]) = true := by decide +kernel

/-- V14 and V20 (with `BUF_CAP = 3`). -/
theorem test_escaped_end :
    answers (exec .feedReadingEscapedEnd (frame .readingEscaped [0x01#8])) (holds .reading [0x01#8, 0x41#8]) = true ∧
    answers (exec .feedReadingEscapedEnd (running tiny .readingEscaped [0x02#8, 0x05#8, 0x07#8]))
      (fun t => holds .reading [0x02#8, 0x05#8, 0x07#8] t && t.ovf) = true := by decide +kernel

/-- V15. -/
theorem test_escaped_esc :
    answers (exec .feedReadingEscapedEsc (frame .readingEscaped [0x01#8])) (holds .reading [0x01#8, 0x42#8]) = true := by
  decide +kernel

/-- V13. -/
theorem test_escaped_start :
    answers (exec .feedReadingEscapedStart (frame .readingEscaped [0x01#8]))
      (fun t => holds .reading [0x01#8, 0x40#8] t && t.outcomes.isEmpty) = true := by decide +kernel

/-- V25, V26, V27: the byte is not taken. -/
theorem test_not_accepted :
    exec (.feedNotAccepted 0x55#8) (frame .done [0x01#8, 0xAA#8]) = .next (frame .done [0x01#8, 0xAA#8]) ∧
    exec (.feedNotAccepted 0x40#8) State.reset = .next State.reset ∧
    exec (.feedNotAccepted 0x40#8) halted = .next halted ∧ rxReady halted false = false := ⟨rfl, rfl, rfl, rfl⟩

/-- V28. -/
theorem test_escape_escape_escape_end :
    feeds (feedAll [0x42#8, 0x42#8, 0x42#8, 0x41#8] (frame .reading [0x01#8]))
      (holds .reading [0x01#8, 0x42#8, 0x41#8]) = true := by decide +kernel

/-- P7, steps 1 and 2: behind a completed frame the bytes wait. -/
theorem test_bytes_wait_during_a_dispatch :
    feedAll [0x41#8, 0x40#8, 0x01#8] (frame .reading [0x01#8, 0xAA#8]) =
      .next { block := frameCompletion (frame .reading [0x01#8, 0xAA#8]), waiting := [0x40#8, 0x01#8] } := rfl

/-- P7, steps 2 to 4: the byte `40` is offered at three edges without `dsp_ready`, at the edge of `DACK`, and is taken at the
edge after it. -/
theorem test_waiting_byte_is_taken_after_dack :
    feeds (runSlots [⟨true, false⟩, ⟨true, false⟩, ⟨true, false⟩, ⟨true, true⟩, ⟨true, false⟩] [0x40#8]
      (frame .done [0x01#8, 0xAA#8])) (holds .reading []) = true ∧
    feeds (runSlots [⟨true, false⟩, ⟨true, false⟩, ⟨true, false⟩, ⟨true, true⟩] [0x40#8]
      (frame .done [0x01#8, 0xAA#8])) (fun _ => true) = false ∧
    feeds (deliverAll [0x40#8] (frame .done [0x01#8, 0xAA#8])) (holds .reading []) = true := by decide +kernel

/-- L1-1: the same trace with the bytes at one per edge and with gaps. -/
theorem test_gaps_do_not_matter :
    feeds (runSlots (List.replicate 7 ⟨true, false⟩) [0x40#8, 0x02#8, 0x05#8, 0x07#8, 0x41#8] (frame .searching []))
      (fun t => decide (t.trace = [{ tag := 0x02#8, hid := 0#4, payload := [0x05#8, 0x07#8] }])) = true ∧
    feeds (runSlots [⟨true, false⟩, ⟨false, false⟩, ⟨true, false⟩, ⟨false, false⟩, ⟨false, false⟩, ⟨true, false⟩,
        ⟨true, false⟩, ⟨true, false⟩] [0x40#8, 0x02#8, 0x05#8, 0x07#8, 0x41#8] (frame .searching []))
      (fun t => decide (t.trace = [{ tag := 0x02#8, hid := 0#4, payload := [0x05#8, 0x07#8] }])) = true := by
  decide +kernel

/-- P6: a start marker after a pending escape is a literal, and its frame is not dispatched. -/
theorem test_start_after_pending_escape :
    feeds (feedAll [0x40#8, 0x42#8, 0x40#8, 0x02#8, 0x05#8, 0x07#8, 0x41#8] (frame .searching []))
      (fun t => holds .searching [] t && t.trace.isEmpty && decide (t.outcomes = [.dropUnknownTag])) = true := by
  decide +kernel

/-! ### Registration -/

/-- R-5 and R-2. -/
theorem test_reg :
    answers (exec (decodeCfg 0x3025#16) State.reset)
      (fun t => decide (entryAt t 0x02#8 = { v := true, hid := 5#4 }) && !t.cfgErr) = true ∧
    answers (exec (decodeCfg 0x0023#16) registering) (fun t =>
      decide (entryAt t 0x02#8 = { v := true, hid := 0#4 }) && t.cfgErr && decide (t.outcomes = [.dupReg])) = true := by
  decide +kernel

/-- R-13 and R-14: no effect in `RUN`. -/
theorem test_reg_in_run :
    exec (decodeCfg 0x0090#16) (frame .searching []) = .next (frame .searching []) ∧
    exec (decodeCfg 0x0020#16) (frame .searching []) = .next (frame .searching []) := ⟨rfl, rfl⟩

/-- R-8 and R-10. -/
theorem test_lock :
    answers (exec (decodeCfg 0x4000#16) State.reset) (fun t => decide (t.phase = .run) && rxReady t false) = true ∧
    answers (exec (decodeCfg 0x7FFF#16) { registering with cfgErr := true }) (fun t =>
      decide (phaseCode t.phase = 0b10#2) && t.cfgErr) = true := by decide +kernel

/-- R-16: no effect in `HALT`. -/
theorem test_lock_in_halt : exec (decodeCfg 0x4000#16) halted = .next halted := rfl

/-- R-6 and R-7. -/
theorem test_cfgRsv :
    exec (decodeCfg 0xFF2F#16) State.reset = .next State.reset ∧
    exec (decodeCfg 0x8000#16) State.reset = .next State.reset := ⟨rfl, rfl⟩

/-! ### Handlers -/

/-- R-17. -/
theorem test_dack :
    answers (exec .dack (frame .done [0x01#8, 0x41#8, 0x99#8])) (holds .searching []) = true := by decide +kernel

/-- R-21: in a dispatch to handler 0 `dsp_ready` gives `MOVE_EXEC` and no `DACK`. -/
theorem test_dsp_ready_in_a_move_dispatch :
    answers (step (atEdge { Edge.idle with dspReady := true } (frame .done [0x02#8, 0x05#8, 0x07#8])))
      (fun t => holds .searching [] t && decide (t.xout = 5#32)) = true ∧
    refuses (exec .dack (frame .done [0x02#8, 0x05#8, 0x07#8])) .noSuchStep = true := by decide +kernel

/-- M8, M9 and M2: the output pair after `MOVE_EXEC`. -/
theorem test_moveExec :
    answers (exec .moveExec (running { Config.ref with moveFb := 2, moveSigned := true } .done
      [0x02#8, 0x00#8, 0x80#8, 0xFF#8, 0xFF#8]))
      (fun t => decide (t.xout = 0xFFFF8000#32 ∧ t.yout = 0xFFFFFFFF#32)) = true ∧
    answers (exec .moveExec (running { Config.ref with moveFb := 4 } .done
      [0x02#8, 0x78#8, 0x56#8, 0x34#8, 0x12#8, 0x01#8, 0x00#8, 0x00#8, 0x80#8]))
      (fun t => decide (t.xout = 0x12345678#32 ∧ t.yout = 0x80000001#32)) = true ∧
    answers (exec .moveExec (frame .done [0x02#8, 0x05#8]))
      (fun t => holds .searching [] t && decide (t.xout = 0xAA#32 ∧ t.yout = 0xBB#32)) = true := by decide +kernel

/-- M4, M5 and M6. -/
theorem test_moveExec_extension :
    answers (exec .moveExec (frame .done [0x02#8, 0x01#8, 0x02#8, 0x03#8]))
      (fun t => decide (t.xout = 1#32 ∧ t.yout = 2#32)) = true ∧
    answers (exec .moveExec (frame .done [0x02#8, 0xFF#8, 0x80#8]))
      (fun t => decide (t.xout = 0xFF#32 ∧ t.yout = 0x80#32)) = true ∧
    answers (exec .moveExec (running { Config.ref with moveSigned := true } .done [0x02#8, 0xFF#8, 0x80#8]))
      (fun t => decide (t.xout = 0xFFFFFFFF#32 ∧ t.yout = 0xFFFFFF80#32)) = true := by decide +kernel

/-- The port observations after V12 (30_encoding.md R79). -/
theorem test_dispatch_outputs :
    let p := portOutputs (frame .done [0x02#8, 0x05#8, 0x07#8]) false
    (p 0#8).dspValid = true ∧ (p 0#8).dspTag = 0x02#8 ∧ (p 0#8).dspHid = 0#4 ∧ (p 0#8).dspLen = 2 ∧
    (p 0#8).dspRdata = 0x05#8 ∧ (p 1#8).dspRdata = 0x07#8 ∧ (p 0#8).rxReady = false := by decide +kernel

/-- 20_memory.md R51 has no condition on `rst`. -/
theorem test_read_port_under_reset :
    (portOutputs (frame .done [0x02#8, 0x05#8, 0x07#8]) true 1#8).dspRdata = 0x07#8 ∧
    (portOutputs (frame .done [0x02#8, 0x05#8, 0x07#8]) true 1#8).dspValid = false := by decide +kernel

/-! ### RESET and READ_OUT -/

/-- Z2: the event stays; Z4: `HALT` is left. -/
theorem test_reset :
    answers (exec .reset { frame .done [0x01#8, 0xAA#8] with
        trace := [{ tag := 0x01#8, hid := 1#4, payload := [0xAA#8] }] }) (fun t =>
      decide (t.dst = .searching ∧ t.blen = 0 ∧ t.xout = 0#32 ∧ (entryAt t 0x01#8).v = false ∧
        t.trace.length = 1)) = true ∧
    answers (exec .reset halted) (fun t => decide (t.phase = .config ∧ t.cfgErr = false)) = true := by decide +kernel

/-- Z5 and Z6: nothing else happens at an edge with `rst = 1`. -/
theorem test_reset_wins :
    answers (step (atEdge { Edge.idle with rst := true, cfg := some 0x0020#16 } State.reset))
      (fun t => !(entryAt t 0x02#8).v) = true ∧
    answers (step (atEdge { Edge.idle with rst := true, rx := some 0x40#8 } (frame .searching [])))
      (fun t => decide (t.phase = .config ∧ t.dst = .searching)) = true := by decide +kernel

/-- `READ_OUT` after M1. -/
theorem test_readOut :
    answers (exec .readOut { frame .searching [] with xout := 5#32, yout := 7#32 }) (fun t =>
      decide (t.samples = [{ xout := 5#32, yout := 7#32, phase := .run, cfgErr := false }])) = true := by decide +kernel

/-! ### Steps -/

/-- A word of the table is what the next step runs. -/
theorem test_withFetchWord :
    answers (step (State.reset.withFetchWord 8 0x40)) (holds .reading []) = true ∧
    answers (step (State.reset.withFetchWord 16 0x0020)) (fun t => (entryAt t 0x02#8).v) = true := by decide +kernel

/-- P1, edge e4: a byte held through the edge of `LOCK` is not taken there. -/
theorem test_byte_at_the_edge_of_lock :
    answers (step (atEdge { Edge.idle with rx := some 0x40#8, cfg := some 0x4000#16 } registering))
      (fun t => decide (t.phase = .run ∧ t.dst = .searching)) = true := by decide +kernel

/-! ### Witnesses: the hypotheses of each statement, met together -/

/-- One well-formed operation for every row, in a context that selects it. -/
def selectedRows : List (SelectCtx × Instr) :=
  [(accepting .searching, .feedSearchingData 0x55#8), (accepting .searching, .feedSearchingEnd),
   (accepting .searching, .feedSearchingEsc), (accepting .searching, .feedSearchingStart),
   (accepting .reading, .feedReadingData 0x00#8), (accepting .reading, .feedReadingEsc),
   (accepting .reading, .feedReadingStart), (accepting .reading, .feedReadingEnd),
   (accepting .readingEscaped, .feedReadingEscapedData 0xFF#8), (accepting .readingEscaped, .feedReadingEscapedEnd),
   (accepting .readingEscaped, .feedReadingEscapedEsc), (accepting .readingEscaped, .feedReadingEscapedStart),
   (accepting .done, .feedNotAccepted 0x40#8), (selectCtx State.reset, .feedNotAccepted 0x40#8),
   (tableCtx, .reg 0b11#2 0xFF#8 0xF#4), (tableCtx, .lock 0x3FFF#14), (tableCtx, .cfgRsv 1#1 0x3FFF#14),
   (accepting .done, .dack), ({ accepting .done with builtin := true }, .moveExec), (tableCtx, .reset),
   (tableCtx, .readOut)]

theorem witness_ConfigurationWordFieldsDecode :
    (0x3025#16).extractLsb 15 14 = 0b00#2 ∧ (0x7FFF#16).extractLsb 15 14 = 0b01#2 ∧
    (0x8000#16).extractLsb 15 14 = 0b10#2 ∧ (0xFF2F#16).extractLsb 15 14 = 0b11#2 := by decide

theorem witness_EveryByteHasExactlyOneClass : Config.ref.Legal := by decide

theorem witness_DecodeInvertsEncode :
    Config.ref.Legal ∧ ∀ p ∈ selectedRows, p.2.wellFormed Config.ref = true ∧ p.2.selectedIn p.1 = true := by
  decide +kernel

theorem witness_EncodeInvertsDecode :
    Config.ref.Legal ∧ decode Config.ref (accepting .reading) (.rx 0x41#8) = .ok .feedReadingEnd := ⟨by decide, rfl⟩

/-- A byte, `rst`, and the internal step of a MOVE dispatch. -/
theorem witness_StepRunsTheDecodedOperation :
    (Config.ref.Legal ∧ (atEdge (edgeOfWord (.rx 0x41#8)) (frame .reading [0x02#8])).edges = edgeOfWord (.rx 0x41#8) :: [] ∧
      decode Config.ref (selectCtx (frame .reading [0x02#8])) (.rx 0x41#8) = .ok .feedReadingEnd ∧
      ¬ ((frame .reading [0x02#8]).InDispatch ∧ AddressedToMove (frame .reading [0x02#8]))) ∧
    ((atEdge (edgeOfWord .rst) (frame .done [0x02#8])).edges = edgeOfWord .rst :: [] ∧
      decode Config.ref (selectCtx (frame .done [0x02#8])) .rst = .ok .reset) ∧
    ((atEdge (edgeOfWord .internal) (frame .done [0x02#8])).edges = edgeOfWord .internal :: [] ∧
      decode Config.ref (selectCtx (frame .done [0x02#8])) .internal = .ok .moveExec) :=
  ⟨⟨by decide, rfl, rfl, by decide⟩, ⟨rfl, rfl⟩, ⟨rfl, rfl⟩⟩

/-- A MOVE dispatch at an edge that also presents a byte, a configuration word and `dsp_ready` and is sampled, and one with no
inputs left. -/
theorem witness_MoveExecRunsAtTheFirstEdge :
    let e : Edge := { rst := false, rx := some 0x40#8, cfg := some 0x4000#16, dspReady := true, sample := true }
    let s := frame .done [0x02#8, 0x05#8, 0x07#8]
    s.config.Legal ∧ nextEdge (atEdge e s) = e ∧ e.rst = false ∧ nextEdge s = Edge.idle ∧ Edge.idle.rst = false ∧
      s.phase = .run ∧ s.dst = .done ∧
      (s.dtab[s.buf[0].toNat]'(s.buf[0].isLt)).hid.toNat = s.config.hidMove := by decide +kernel

theorem witness_DspReadyHasNoEffectInThreeCases :
    Config.ref.Legal ∧
    ((atEdge (edgeOfWord .dsp) (frame .reading [])).edges = edgeOfWord .dsp :: [] ∧
      ¬ (atEdge (edgeOfWord .dsp) (frame .reading [])).InDispatch) ∧
    ((atEdge (edgeOfWord .dsp) (frame .done [0x02#8])).InDispatch ∧
      AddressedToMove (atEdge (edgeOfWord .dsp) (frame .done [0x02#8]))) ∧
    (atEdge { edgeOfWord .dsp with rst := true } (frame .done [0x01#8])).edges =
      { edgeOfWord .dsp with rst := true } :: [] := by decide +kernel

/-- An edge with `rst`; one with a byte and a configuration word, in `CONFIG` and in `RUN`. -/
theorem witness_EveryEdgePerformsAtMostOneEffectiveOperation :
    let e : Edge := { Edge.idle with rx := some 0x55#8, cfg := some 0x0020#16 }
    Config.ref.Legal ∧
    ({ e with rst := true, sample := true }).rst = true ∧
    (e.rst = false ∧ .feedNotAccepted 0x55#8 ∈ edgeOps State.reset e ∧
      .reg 0#2 0x02#8 0#4 ∈ edgeOps State.reset e ∧ State.reset.phase = .config) ∧
    (.feedReadingData 0x55#8 ∈ edgeOps (frame .reading []) e ∧ .reg 0#2 0x02#8 0#4 ∈ edgeOps (frame .reading []) e ∧
      (frame .reading []).phase = .run) := by decide +kernel

theorem witness_StepAlwaysAnswersNext : State.reset.config.Legal ∧ halted.config.Legal := by decide

/-- Each way to break 00_scope.md R8, at the ends of the ranges. -/
theorem witness_IllegalConfigurationIsRefused :
    ({ Config.ref with pEnd := 0x40#8 }).pStart = ({ Config.ref with pEnd := 0x40#8 }).pEnd ∧
    ({ Config.ref with pEsc := 0x40#8 }).pStart = ({ Config.ref with pEsc := 0x40#8 }).pEsc ∧
    ({ Config.ref with pEsc := 0x41#8 }).pEnd = ({ Config.ref with pEsc := 0x41#8 }).pEsc ∧
    ({ Config.ref with bufCap := 0 }).bufCap < 1 ∧ 256 < ({ Config.ref with bufCap := 257 }).bufCap ∧
    (({ Config.ref with moveFb := 3 }).moveFb ≠ 1 ∧ ({ Config.ref with moveFb := 3 }).moveFb ≠ 2 ∧
      ({ Config.ref with moveFb := 3 }).moveFb ≠ 4) ∧
    16 ≤ ({ Config.ref with hidMove := 16 }).hidMove := by decide

/-- With a byte, a configuration word and a sample, and with no inputs left. -/
theorem witness_UnacknowledgedDispatchWaits :
    let e : Edge := { Edge.idle with rx := some 0x55#8, cfg := some 0x4000#16, sample := true }
    let s := frame .done [0x01#8, 0xAA#8]
    s.config.Legal ∧ nextEdge (atEdge e s) = e ∧ e.rst = false ∧ e.dspReady = false ∧ nextEdge s = Edge.idle ∧
      s.InDispatch ∧ ¬ AddressedToMove s := by decide +kernel

/-- An explicit idle edge, and no inputs left. -/
theorem witness_IdleEdgeChangesNothingOutsideADispatch :
    (frame .reading [0x02#8]).config.Legal ∧ nextEdge (atEdge Edge.idle (frame .reading [0x02#8])) = Edge.idle ∧
      nextEdge (frame .reading [0x02#8]) = Edge.idle ∧ ¬ (frame .reading [0x02#8]).InDispatch := by decide

theorem witness_NoiseInSearchingIsDiscarded :
    (frame .searching []).phase = .run ∧ (frame .searching []).dst = .searching ∧
      ¬ (frame .searching []).config.IsMarker 0x43#8 := by decide

theorem witness_StartMarkerInSearchingBeginsAFrame :
    (frame .searching []).phase = .run ∧ (frame .searching []).dst = .searching := by decide

/-- The last free cell, and the full buffer. -/
theorem witness_DataByteInReadingIsAppended :
    ((running tiny .reading [0x02#8, 0x05#8]).phase = .run ∧ (running tiny .reading [0x02#8, 0x05#8]).dst = .reading ∧
      ¬ (running tiny .reading [0x02#8, 0x05#8]).config.IsMarker 0x3F#8 ∧
      (running tiny .reading [0x02#8, 0x05#8]).blen < tiny.bufCap) ∧
    ¬ (running tiny .reading [0x02#8, 0x05#8, 0x07#8]).blen < tiny.bufCap := by decide

theorem witness_EscapeMarkerInReadingMakesNextByteLiteral :
    (frame .reading [0x01#8]).phase = .run ∧ (frame .reading [0x01#8]).dst = .reading := by decide

theorem witness_StartMarkerInReadingRestartsTheFrame :
    (frame .reading [0x02#8, 0x09#8]).phase = .run ∧ (frame .reading [0x02#8, 0x09#8]).dst = .reading := by decide

/-- The four rows, with the last free cell and with the full buffer. -/
theorem witness_EscapedByteIsAppendedUnescaped :
    let s := running tiny .readingEscaped [0x02#8, 0x05#8]
    s.phase = .run ∧ s.dst = .readingEscaped ∧ ¬ s.config.IsMarker 0x55#8 ∧
    0x55#8 = s.config.unesc[(0x55#8).toNat] ∧
    0x41#8 = s.config.unesc[s.config.pEnd.toNat]'(s.config.pEnd.isLt) ∧
    0x42#8 = s.config.unesc[s.config.pEsc.toNat]'(s.config.pEsc.isLt) ∧
    0x40#8 = s.config.unesc[s.config.pStart.toNat]'(s.config.pStart.isLt) ∧ s.blen < s.config.bufCap ∧
    ¬ (running tiny .readingEscaped [0x02#8, 0x05#8, 0x07#8]).blen < tiny.bufCap := by decide +kernel

/-- The four outcomes; the dispatched frame has the one byte of its tag. -/
theorem witness_CompletedFrameIsDispatchedOrDropped :
    ((overflown 0x02#8).phase = .run ∧ (overflown 0x02#8).dst = .reading ∧ (overflown 0x02#8).ovf = true) ∧
    ((frame .reading []).ovf = false ∧ (frame .reading []).blen = 0) ∧
    ((frame .reading [0x03#8]).ovf = false ∧ (frame .reading [0x03#8]).blen ≠ 0 ∧
      (entryAt (frame .reading [0x03#8]) (frame .reading [0x03#8]).buf[0]).v = false) ∧
    ((frame .reading [0x02#8]).ovf = false ∧ (frame .reading [0x02#8]).blen ≠ 0 ∧
      (entryAt (frame .reading [0x02#8]) (frame .reading [0x02#8]).buf[0]).v = true) := by decide +kernel

theorem witness_OfferedByteIsNotAcceptedWhenThePortIsClosed :
    (frame .done [0x01#8]).dst = .done ∧ State.reset.phase ≠ .run ∧ halted.phase ≠ .run := by decide

/-- A row that stores nothing, and an append that changes its cell. -/
theorem witness_FeedLeavesPhaseTableAndOutputsAlone :
    (Instr.feedReadingEnd.format = .rx ∧ answers (exec .feedReadingEnd (frame .reading [])) (fun _ => true) = true) ∧
    ((Instr.feedReadingData 0x07#8).format = .rx ∧
      answers (exec (.feedReadingData 0x07#8) (running tiny .reading [0x02#8, 0x05#8]))
        (fun t => decide (t.buf[2] ≠ (running tiny .reading [0x02#8, 0x05#8]).buf[2])) = true) := by decide +kernel

theorem witness_AcceptedByteRunsExactlyOneFeedRow :
    (frame .readingEscaped []).phase = .run ∧ (frame .readingEscaped []).dst ≠ .done := by decide

/-- The last free cell, in `READING` and in `READING_ESCAPED`. -/
theorem witness_AppendExtendsTheDecodedFrame :
    ((running tiny .reading [0x02#8, 0x05#8]).Inv ∧ (running tiny .reading [0x02#8, 0x05#8]).phase = .run ∧
      (running tiny .reading [0x02#8, 0x05#8]).blen < tiny.bufCap ∧ (running tiny .reading [0x02#8, 0x05#8]).dst = .reading ∧
      answers (exec (.feedReadingData 0x07#8) (running tiny .reading [0x02#8, 0x05#8])) (fun _ => true) = true) ∧
    ((running tiny .readingEscaped [0x02#8, 0x05#8]).Inv ∧
      answers (feedByte 0x41#8 (running tiny .readingEscaped [0x02#8, 0x05#8])) (fun _ => true) = true) := by
  refine ⟨⟨?_, ?_, ?_, ?_, ?_⟩, ?_, ?_⟩ <;> decide +kernel

theorem witness_RegistrationWritesOneEntryOnce :
    (registering.phase = .config ∧ (registering.dtab[0xFF]).v = false) ∧
    (registering.phase = .config ∧ (registering.dtab[0x02]).v = true) ∧ (frame .searching []).phase ≠ .config := by
  decide +kernel

theorem witness_LockEndsTheConfigurationPhase :
    (State.reset.phase = .config ∧ State.reset.cfgErr = false) ∧
    (({ registering with cfgErr := true }).phase = .config ∧ ({ registering with cfgErr := true }).cfgErr = true) ∧
    halted.phase ≠ .config := by decide

theorem witness_RegistrationOrderIsIrrelevant :
    (List.Perm [(0x02#8, 0#4), (0x01#8, 1#4)] [(0x01#8, 1#4), (0x02#8, 0#4)] ∧
      ([(0x02#8, 0#4), (0x01#8, 1#4)].map Prod.fst).Nodup) ∧
    (List.Perm [(0x02#8, 0#4), (0x02#8, 0#4)] [(0x02#8, 0#4), (0x02#8, 0#4)] ∧
      ¬ ([(0x02#8, 0#4), (0x02#8, 0#4)].map Prod.fst).Nodup) := by decide

theorem witness_OperationsOutsideTheirPhaseAreNoFault :
    (halted.phase ≠ .run ∧ halted.Inv) ∧ (State.reset.phase ≠ .run ∧ State.reset.Inv) ∧
    (Instr.feedReadingEnd.format = .rx ∧ ∀ b, Instr.feedReadingEnd ≠ .feedNotAccepted b) ∧
    (halted.phase ≠ .config ∧ (Instr.lock 0#14).format = .cfg) := by
  refine ⟨by decide +kernel, by decide +kernel, ⟨rfl, fun b h => by cases h⟩, by decide, rfl⟩

theorem witness_DackEndsAnExternalDispatch :
    ((frame .done [0x01#8]).phase = .run ∧ (frame .done [0x01#8]).dst = .done ∧
      (entryAt (frame .done [0x01#8]) (frame .done [0x01#8]).buf[0]).hid.toNat ≠ Config.ref.hidMove) ∧
    ¬ ((frame .done [0x02#8]).phase = .run ∧ (frame .done [0x02#8]).dst = .done ∧
      (entryAt (frame .done [0x02#8]) (frame .done [0x02#8]).buf[0]).hid.toNat ≠ Config.ref.hidMove) := by decide +kernel

/-- Exactly `2 * MOVE_FB` payload bytes, and one fewer. -/
theorem witness_MoveExecWritesBothOutputsOrNeither :
    ((frame .done [0x02#8, 0x05#8, 0x07#8]).phase = .run ∧ (frame .done [0x02#8, 0x05#8, 0x07#8]).dst = .done ∧
      (frame .done [0x02#8, 0x05#8, 0x07#8]).blen ≤ 256 ∧ AddressedToMove (frame .done [0x02#8, 0x05#8, 0x07#8]) ∧
      2 * Config.ref.moveFb ≤ (frame .done [0x02#8, 0x05#8, 0x07#8]).blen - 1) ∧
    (AddressedToMove (frame .done [0x02#8, 0x05#8]) ∧
      ¬ 2 * Config.ref.moveFb ≤ (frame .done [0x02#8, 0x05#8]).blen - 1) := by decide +kernel

theorem witness_MoveFieldsAreLittleEndianAndExtended :
    Config.ref.moveFb = 1 ∧ ({ Config.ref with moveFb := 2 }).moveFb = 2 ∧
      ({ Config.ref with moveFb := 4 }).moveFb = 4 := ⟨rfl, rfl, rfl⟩

theorem witness_ReadOutReturnsTheStatusOutputs :
    (atEdge { edgeOfWord .rst with sample := true } halted).config.Legal ∧
    (atEdge { edgeOfWord .rst with sample := true } halted).edges = { edgeOfWord .rst with sample := true } :: [] := by
  decide

/-- The last payload byte of a full buffer, and a state outside `DONE`. -/
theorem witness_DispatchOutputsPresentTheFrame :
    ((running tiny .done [0x02#8, 0x05#8, 0x07#8]).Inv ∧ (running tiny .done [0x02#8, 0x05#8, 0x07#8]).dst = .done ∧
      1 + (1#8).toNat < 256 ∧ (1#8).toNat < (running tiny .done [0x02#8, 0x05#8, 0x07#8]).blen - 1) ∧
    ((frame .reading [0x02#8]).Inv ∧ (frame .reading [0x02#8]).dst ≠ .done) := by
  refine ⟨⟨?_, ?_, ?_, ?_⟩, ?_, ?_⟩ <;> decide +kernel

theorem witness_CountersFitTheirWidths :
    (running tiny .done [0x02#8, 0x05#8, 0x07#8]).Inv ∧ Config.ref.bufCap = 64 := by decide +kernel

theorem witness_HiddenStateIsNotSeenOutsideADispatch :
    let s := frame .reading [0x02#8]
    let t := frame .searching []
    s.dst ≠ .done ∧ t.dst ≠ .done ∧ s.phase = t.phase ∧ s.cfgErr = t.cfgErr ∧ s.xout = t.xout ∧ s.yout = t.yout ∧
      s.config = t.config ∧ s.draws = t.draws ∧ s.blen ≠ t.blen := by
  refine ⟨by decide, by decide, rfl, rfl, rfl, rfl, rfl, rfl, by decide⟩

theorem witness_ResetStateSatisfiesTheInvariant : ({ Config.ref with bufCap := 256 }).Legal := by decide

/-- A step that fills the buffer, one that completes a frame, one of `LOCK`. -/
theorem witness_EveryStepKeepsTheInvariant :
    let s := atEdge (edgeOfWord (.rx 0x07#8)) (running tiny .reading [0x02#8, 0x05#8])
    let u := atEdge (edgeOfWord (.rx 0x41#8)) (frame .reading [0x02#8])
    let v := atEdge (edgeOfWord (.cfg 0x4000#16)) registering
    (s.Inv ∧ answers (step s) (fun t => decide (t.blen = 3)) = true) ∧
    (u.Inv ∧ answers (step u) (fun t => decide (t.dst = .done)) = true) ∧
    (v.Inv ∧ answers (step v) (fun t => decide (t.phase = .run)) = true) := by
  refine ⟨⟨?_, ?_⟩, ⟨?_, ?_⟩, ?_, ?_⟩ <;> decide +kernel

theorem witness_DispatchTableIsFrozenOutsideConfig :
    let s := atEdge (edgeOfWord (.cfg 0x0090#16)) (frame .reading [0x02#8])
    s.phase ≠ .config ∧ (nextEdge s).rst = false ∧ answers (step s) (fun _ => true) = true := by decide +kernel

theorem witness_OutputsChangeOnlyByMoveExecAndReset :
    (∃ t, exec .dack (frame .done [0x01#8]) = .next t) ∧ Instr.dack ≠ .moveExec ∧ Instr.dack ≠ .reset :=
  ⟨⟨_, rfl⟩, by decide, by decide⟩

/-- A change of `PHASE` into each of the three, and an operation in `HALT`. -/
theorem witness_PhasesAreEnteredOnlyAsStated :
    answers (exec .reset halted) (fun t => decide (t.phase = .config ∧ t.phase ≠ halted.phase)) = true ∧
    answers (exec (.lock 0#14) State.reset) (fun t => decide (t.phase = .run)) = true ∧
    answers (exec (.lock 0#14) { registering with cfgErr := true }) (fun t => decide (t.phase = .halt)) = true ∧
    (answers (exec .readOut halted) (fun _ => true) = true ∧ halted.phase = .halt ∧ Instr.readOut ≠ .reset) := by
  decide +kernel

theorem witness_ConfigurationErrorIsSticky :
    (registering.cfgErr = false ∧ answers (exec (.reg 0#2 0x02#8 0#4) registering) (fun t => t.cfgErr) = true) ∧
    (halted.cfgErr = true ∧ answers (exec .reset halted) (fun t => !t.cfgErr) = true) := by decide +kernel

theorem witness_TraceGrowsOnlyByFrameCompletion :
    answers (exec .feedReadingEnd (frame .reading [0x02#8])) (fun t => decide (t.trace.length = 1)) = true := by
  decide +kernel

theorem witness_EveryDispatchIsRecordedOnce :
    let s := atEdge (edgeOfWord (.rx 0x41#8)) (frame .reading [0x02#8])
    s.trace.length = s.outcomes.count .dispatched ∧ answers (step s) (fun _ => true) = true := by decide +kernel

theorem witness_DispatchIsFrozenAndNeverNested :
    let s := frame .done [0x01#8]
    s.phase = .run ∧ s.dst = .done ∧ ∃ t, exec (.feedNotAccepted 0x40#8) s = .next t := ⟨rfl, rfl, _, rfl⟩

theorem witness_ParametersNeverChange : answers (step State.reset) (fun _ => true) = true := by decide +kernel

/-- One item of each kind; three items fill `tiny`, four overflow it. -/
theorem witness_WireFrameDecodesToItsItems :
    tiny.Legal ∧ (running tiny .searching []).phase = .run ∧ (running tiny .searching []).dst = .searching ∧
    (running tiny .reading [0x02#8]).dst = .reading ∧
    (∀ it ∈ [WireItem.plain 0x02#8, .escaped 0x41#8, .plain 0x07#8, .plain 0x08#8], itemLegal tiny it = true) := by
  decide

/-- A frame of exactly `BUF_CAP` bytes with a marker in it, and `ESCENC` the identity. -/
theorem witness_EncodedFrameRoundTrips :
    tiny.Legal ∧ (running tiny .reading [0x01#8]).phase = .run ∧ (running tiny .reading [0x01#8]).dst = .reading ∧
    [0x02#8, 0x41#8, 0x07#8].length ≤ tiny.bufCap ∧
    (∀ x ∈ [0x02#8, 0x41#8, 0x07#8], tiny.IsMarker x → unescape tiny x = x) ∧
    (entryAt (running tiny .reading [0x01#8]) 0x02#8).v = true ∧
    (entryAt (running tiny .reading [0x01#8]) 0x03#8).v = false := by decide +kernel

/-- A frame of exactly `BUF_CAP` bytes with a marker in it, behind the garbage. -/
theorem witness_GarbageWithoutStartIsDiscarded :
    ((running tiny .searching []).phase = .run ∧ (running tiny .searching []).dst = .searching ∧
      tiny.pStart ∉ [0x41#8, 0x42#8, 0x55#8]) ∧
    tiny.Legal ∧ [0x02#8, 0x41#8, 0x07#8].length ≤ tiny.bufCap ∧
    (∀ x ∈ [0x02#8, 0x41#8, 0x07#8], tiny.IsMarker x → unescape tiny x = x) ∧
    (entryAt (running tiny .searching []) 0x02#8).v = true := by decide +kernel

theorem witness_TwoStartMarkersKeepOnlyTheSecondFrame :
    (frame .searching []).config.Legal ∧ (frame .searching []).phase = .run ∧ (frame .searching []).dst = .searching ∧
    (∀ it ∈ [WireItem.plain 0x01#8, .escaped 0x40#8], itemLegal Config.ref it = true) ∧
    (∀ it ∈ [WireItem.plain 0x02#8], itemLegal Config.ref it = true) := by decide

theorem witness_GuardByteResynchronises :
    (frame .readingEscaped [0x01#8]).config.Legal ∧ (frame .readingEscaped [0x01#8]).phase = .run ∧
      (frame .readingEscaped [0x01#8]).dst ≠ .done ∧ ¬ (frame .readingEscaped [0x01#8]).config.IsMarker 0x00#8 := by decide

theorem witness_OnlyUnescapedEndCompletesAFrame :
    answers (exec .feedReadingEnd (frame .reading [])) (fun t =>
      decide (t.outcomes = (frame .reading []).outcomes ++ [.dropEmpty])) = true ∧
    ((frame .reading [0x01#8]).config.Legal ∧ (frame .reading [0x01#8]).phase = .run ∧
      (frame .reading [0x01#8]).dst = .reading) := by decide +kernel

theorem witness_AcknowledgedStreamIsAlwaysConsumed :
    (frame .reading [0x01#8]).phase = .run ∧ (frame .done [0x01#8]).phase = .run := by decide

/-- Two schedules that consume a frame for an external handler and end outside the dispatch, one with gaps. -/
theorem witness_StreamIsIndependentOfGaps :
    let s := frame .searching []
    s.config.Legal ∧ s.phase = .run ∧
    feeds (runSlots [⟨true, false⟩, ⟨true, false⟩, ⟨true, false⟩, ⟨false, true⟩] [0x40#8, 0x01#8, 0x41#8] s)
      (fun t => decide (¬ t.InDispatch)) = true ∧
    feeds (runSlots [⟨true, false⟩, ⟨false, false⟩, ⟨true, false⟩, ⟨false, false⟩, ⟨true, false⟩, ⟨false, false⟩,
      ⟨false, true⟩] [0x40#8, 0x01#8, 0x41#8] s) (fun t => decide (¬ t.InDispatch)) = true := by decide +kernel

/-- Quiescent with no byte to come, with the port closed and a byte offered, and a dispatch that waits. -/
theorem witness_QuiescentAndHangingRunsKeepTheirObservation :
    (frame .reading [0x01#8]).config.Legal ∧ (frame .reading [0x01#8]).Quiescent ∧
    (let s := atEdge (edgeOfWord (.rx 0x40#8)) halted
     s.Quiescent ∧ ∀ e ∈ s.edges, e.rst = false ∧ e.cfg = none) ∧
    (let s := atEdge (edgeOfWord (.rx 0x40#8)) (frame .done [0x01#8])
     s.AwaitsDack ∧ ∀ e ∈ s.edges, e.rst = false ∧ e.dspReady = false) := by decide +kernel

/-- A prefix that leaves `READING` and one that leaves a pending escape (P6), with a frame of exactly `BUF_CAP` bytes. -/
theorem witness_FrameAfterAPrefixIsDispatchedUnlessAnEscapeIsPending :
    ((running tiny .searching []).Inv ∧ (running tiny .searching []).phase = .run) ∧
    [0x02#8, 0x41#8, 0x07#8].length ≤ tiny.bufCap ∧
    (∀ x ∈ [0x02#8, 0x41#8, 0x07#8], tiny.IsMarker x → unescape tiny x = x) ∧
    feeds (deliverAll [0x40#8, 0x01#8] (running tiny .searching [])) (holds .reading [0x01#8]) = true ∧
    feeds (deliverAll [0x40#8, 0x42#8] (running tiny .searching [])) (holds .readingEscaped []) = true := by
  refine ⟨⟨?_, ?_⟩, ?_, ?_, ?_, ?_⟩ <;> decide +kernel

end Sys2Proof.Tests
end

/-! PROOFS. The scope statements (00_scope.md): the configuration record and its derived widths, the refusal of an illegal
configuration, and the edge that presents one port word. -/

namespace Sys2Proof.Machine

/-! ### An edge that presents one port word -/

/-- Outside a MOVE dispatch the internal step that stands at every edge without `rst` selects nothing, so only the
presented word decides (30_encoding.md R82). -/
theorem edgeOps_edgeOfWord {s : State} {w : PortWord}
    (h : w = .internal ∨ w = .rst ∨ ¬ (s.InDispatch ∧ AddressedToMove s)) :
    edgeOps s (edgeOfWord w) = (decodeOp s.config (selectCtx s) w).toList := by
  obtain rfl | rfl | hmove := h
  · cases hi : decodeOp s.config (selectCtx s) .internal <;> simp [edgeOps, edgeWords, edgeOfWord, Edge.idle, hi]
  · rfl
  · have hint : decodeOp s.config (selectCtx s) .internal = none := by rw [decodeOp_internal, if_neg hmove]
    cases w with
    | rx _ | cfg _ | internal | status => simp [edgeOps, edgeWords, edgeOfWord, Edge.idle, hint]
    | dsp =>
      cases hd : decodeOp s.config (selectCtx s) .dsp <;> simp [edgeOps, edgeWords, edgeOfWord, Edge.idle, hint, hd]
    | rst => rfl

theorem decodeOp_of_decode {c : Config} {x : SelectCtx} {w : PortWord} {i : Instr} (h : decode c x w = .ok i) :
    decodeOp c x w = some i := by
  rw [decodeOp, h]

/-- Settles O7: the presented word is the only one that selects an operation, so the edge's list of operations is that
operation alone. -/
theorem stepRunsTheDecodedOperation : Obligations.StepRunsTheDecodedOperation := by
  intro s w rest i hlegal hedges hdecode hmove
  have hops : edgeOps s (edgeOfWord w) = [i] := by
    rw [edgeOps_edgeOfWord hmove, decodeOp_of_decode hdecode, Option.toList_some]
  rw [step_of_legal hlegal, nextEdge_of_cons hedges, takeEdge_of_cons hedges, hops, execAll_singleton]

/-! ### The configuration is checked -/

theorem step_of_illegal {s : State} (h : ¬ s.config.Legal) : step s = .refused .configRejected := if_neg h

/-- Settles O12: each of the ways contradicts one constraint of R8. -/
theorem illegalConfigurationIsRefused : Obligations.IllegalConfigurationIsRefused := by
  intro s hbroken
  apply step_of_illegal
  rintro ⟨⟨hse, hsx, hex⟩, ⟨hlo, hhi⟩, hfb, hhid⟩
  obtain h | h | h | h | h | ⟨h1, h2, h4⟩ | h := hbroken
  · exact hse h
  · exact hsx h
  · exact hex h
  · omega
  · omega
  · omega
  · omega

/-! ### The configuration never changes -/

@[simp] theorem appendEscaped_config (b : Byte) (s : State) : (appendEscaped b s).config = s.config := rfl

@[simp] theorem dispatchReturn_config (s : State) : (dispatchReturn s).config = s.config := rfl

@[simp] theorem frameCompletion_config (s : State) : (frameCompletion s).config = s.config := by
  obtain ⟨k, -, hdrop⟩ | ⟨-, -, -, henter⟩ := frameCompletion_cases s
  · rw [hdrop, dropFrame_eq]
  · rw [henter, dispatchEnter_eq]

@[simp] theorem moveWrite_config (s : State) : (moveWrite s).config = s.config := by
  obtain ⟨x, y, hwrite⟩ := moveWrite_cases s
  rw [hwrite]

@[simp] theorem register_config (t : Byte) (h : HandlerId) (s : State) : (register t h s).config = s.config := by
  cases hv : (entryAt s t).v
  · rw [register_of_fresh hv, setEntry_config]
  · rw [register_of_duplicate hv]

/-- No operation changes the configuration record (00_scope.md R7). -/
theorem exec_config {i : Instr} {s t : State} (h : exec i s = .next t) : t.config = s.config := by
  cases i with
  | feedSearchingData b => rw [(execFeedSearchingData_next.mp h).2]
  | feedSearchingEnd => rw [(execFeedSearchingEnd_next.mp h).2]
  | feedSearchingEsc => rw [(execFeedSearchingEsc_next.mp h).2]
  | feedSearchingStart => rw [(execFeedSearchingStart_next.mp h).2, withDst_config, clearBuf_config]
  | feedReadingData b => rw [(execFeedReadingData_next.mp h).2, append_config]
  | feedReadingEsc => rw [(execFeedReadingEsc_next.mp h).2, withDst_config]
  | feedReadingStart => rw [(execFeedReadingStart_next.mp h).2, clearBuf_config, ghost_config]
  | feedReadingEnd => rw [(execFeedReadingEnd_next.mp h).2, frameCompletion_config]
  | feedReadingEscapedData b => rw [(execFeedReadingEscapedData_next.mp h).2, appendEscaped_config]
  | feedReadingEscapedEnd => rw [(execFeedReadingEscapedEnd_next.mp h).2, appendEscaped_config]
  | feedReadingEscapedEsc => rw [(execFeedReadingEscapedEsc_next.mp h).2, appendEscaped_config]
  | feedReadingEscapedStart => rw [(execFeedReadingEscapedStart_next.mp h).2, appendEscaped_config]
  | feedNotAccepted b => rw [(execFeedNotAccepted_next.mp h).2]
  | reg rsv tag hid =>
    rw [← execReg_next.mp h]
    split
    · exact register_config tag hid s
    · rfl
  | lock ign =>
    rw [← execLock_next.mp h]
    split
    · exact lockPhase_config s
    · rfl
  | cfgRsv op0 ign => rw [execCfgRsv_next.mp h]
  | dack => rw [(execDack_next.mp h).2, dispatchReturn_config]
  | moveExec => rw [(execMoveExec_next.mp h).2, dispatchReturn_config, moveWrite_config]
  | reset => rw [← execReset_next.mp h, resetBlock_config]
  | readOut => rw [← execReadOut_next.mp h, recordSample_config]

/-- Settles O50: taking the edge keeps the record, and so does each operation of the edge. -/
theorem parametersNeverChange : Obligations.ParametersNeverChange := by
  intro s t hstep
  obtain ⟨-, hrun⟩ := step_eq_next_iff.mp hstep
  exact execAll_keeps (P := fun u => u.config = s.config) (fun _ _ _ _ hu hexec => (exec_config hexec).trans hu)
    (takeEdge_config s) hrun

/-! ### The derived widths -/

theorem le_two_pow_ceilLog2 (n : Nat) : n ≤ 2 ^ ceilLog2 n := by
  unfold ceilLog2
  split
  · simpa using ‹n ≤ 1›
  · have hlog : n - 1 < 2 ^ (Nat.log2 (n - 1) + 1) := Nat.lt_log2_self
    omega

theorem lt_two_pow_blenWidth {c : Config} {n : Nat} (h : n ≤ c.bufCap) : n < 2 ^ blenWidth c :=
  (Nat.lt_succ_of_le h).trans_le (le_two_pow_ceilLog2 (c.bufCap + 1))

theorem bufCap_le_two_pow_lenWidth (c : Config) : c.bufCap ≤ 2 ^ lenWidth c :=
  (le_two_pow_ceilLog2 c.bufCap).trans (Nat.pow_le_pow_right Nat.two_pos (le_max_right _ _))

/-- With `dsp_valid = 1` the length is that of a payload, one less than a `BLEN` of at least 1 (I5) and at most `BUF_CAP`
(I1); otherwise it is what the `LW` wires carry. -/
theorem dspLen_lt_two_pow_lenWidth {s : State} (hinv : s.Inv) (rst : Bool) : dspLen s rst < 2 ^ lenWidth s.config := by
  obtain ⟨-, hbound, -, -, -, hdispatch, -, -⟩ := hinv
  unfold dspLen
  split
  case isTrue hvalid =>
    obtain ⟨hdone, -⟩ : s.dst = .done ∧ rst = false := by simpa [dspValid] using hvalid
    obtain ⟨-, hpos, -, -⟩ := hdispatch hdone
    have hcap := bufCap_le_two_pow_lenWidth s.config
    omega
  case isFalse => exact Nat.mod_lt _ (Nat.two_pow_pos _)

/-- Settles O39: `BLEN` and `dsp_len` are bounded by `BUF_CAP`, whose widths round up. -/
theorem countersFitTheirWidths : Obligations.CountersFitTheirWidths := by
  refine ⟨fun s rst a hinv => ⟨?_, dspLen_lt_two_pow_lenWidth hinv rst⟩, fun c hcap => ?_⟩
  · obtain ⟨-, hbound, -⟩ := hinv
    exact lt_two_pow_blenWidth hbound
  · rw [blenWidth, lenWidth, hcap]
    decide

end Sys2Proof.Machine

/-! PROOFS. The state statements (10_state.md): the codes on the ports, what an operation can do to the state, the outputs, the
configuration error and the dispatch trace, the hidden state, and the invariants of R33. -/

namespace Sys2Proof.Machine

/-- Settles O6: each code is the value its definition gives. -/
theorem portCodesAndOutcomeNumbers : Obligations.PortCodesAndOutcomeNumbers :=
  ⟨⟨rfl, rfl, rfl⟩, ⟨rfl, rfl, rfl, rfl⟩, rfl, rfl, rfl, rfl, rfl, rfl⟩

/-! ### The hidden state -/

/-- Outside a dispatch every output is a function of `PHASE`, `CFG_ERR`, `XOUT`, `YOUT`, the parameters and the draw
counter (10_state.md R34). -/
theorem portOutputs_of_not_done {s : State} (h : s.dst ≠ .done) (rst : Bool) (a : Byte) :
    portOutputs s rst a =
      { rxReady  := decide (rst = false ∧ s.phase = .run)
        dspValid := false
        dspTag   := Config.freeTag s.draws
        dspHid   := Config.freeHid s.draws
        dspLen   := (Config.freeLen s.draws).toNat % 2 ^ lenWidth s.config
        dspRdata := Config.freeRdata s.draws (readAddress s.config a)
        xout     := s.xout
        yout     := s.yout
        phase    := phaseCode s.phase
        cfgErr   := s.cfgErr } := by
  have hvalid : dspValid s rst = false := by simp [dspValid, h]
  simp [portOutputs, rxReady, dspTag, dspHid, dspLen, dspRdata, hvalid, h]

/-- Settles O40: what the outputs depend on outside a dispatch agrees in the two states. -/
theorem hiddenStateIsNotSeenOutsideADispatch : Obligations.HiddenStateIsNotSeenOutsideADispatch := by
  intro s t rst a hs ht hphase herr hx hy hconfig hdraws
  rw [portOutputs_of_not_done hs, portOutputs_of_not_done ht, hphase, herr, hx, hy, hconfig, hdraws]

/-! ### What an operation can do to the state -/

/-- The changes of state an operation can make, each with the part of its guard and of its identity that says where it
comes from. Rows with the same action share a case. -/
inductive Effect (i : Instr) (s : State) : State → Prop
  | unchanged : Effect i s s
  | sampled : Effect i s (recordSample s)
  | frameBegun : FeedRow s .searching → Effect i s ((clearBuf s).withDst .reading)
  | frameRestarted : FeedRow s .reading → Effect i s (clearBuf (ghost .dropTrunc s))
  | byteAppended (b : Byte) : FeedRow s .reading → Effect i s (append b s)
  | escapeBegun : FeedRow s .reading → Effect i s (s.withDst .readingEscaped)
  | escapedAppended (b : Byte) : FeedRow s .readingEscaped → Effect i s (appendEscaped b s)
  | frameDropped (k : OutcomeCode) : FeedRow s .reading → Effect i s (dropFrame k s)
  | dispatchEntered : i = .feedReadingEnd → FeedRow s .reading → s.ovf = false → s.blen ≠ 0 →
      (entryAt s (frameTag s)).v = true → Effect i s (dispatchEnter (entryAt s (frameTag s)).hid s)
  | dispatchEnded : s.InDispatch → Effect i s (dispatchReturn s)
  | moveFinished (x y : OutWord) : i = .moveExec → s.InDispatch → Effect i s (dispatchReturn (writeOutputs x y s))
  | tagRegistered (tag : Byte) (e : DispatchEntry) : s.phase = .config → Effect i s (setEntry tag e s)
  | duplicateRefused (rsv : BitVec 2) (tag : Byte) (hid : HandlerId) : i = .reg rsv tag hid → s.phase = .config →
      (entryAt s tag).v = true → Effect i s { s with cfgErr := true, outcomes := s.outcomes ++ [.dupReg] }
  | locked : s.phase = .config → Effect i s (lockPhase s)
  | blockReset : i = .reset → Effect i s (resetBlock s)

theorem effect_frameCompletion {s : State} (hrow : FeedRow s .reading) :
    Effect .feedReadingEnd s (frameCompletion s) := by
  obtain ⟨k, -, hdrop⟩ | ⟨hovf, hlen, hvalid, henter⟩ := frameCompletion_cases s
  · exact hdrop ▸ .frameDropped k hrow
  · exact henter ▸ .dispatchEntered rfl hrow hovf hlen hvalid

theorem effect_register {s : State} (hphase : s.phase = .config) (rsv : BitVec 2) (tag : Byte) (hid : HandlerId) :
    Effect (.reg rsv tag hid) s (register tag hid s) := by
  cases hv : (entryAt s tag).v
  · exact register_of_fresh hv hid ▸ .tagRegistered tag _ hphase
  · exact register_of_duplicate hv hid ▸ .duplicateRefused rsv tag hid rfl hphase hv

/-- Every operation that answers a next state makes one of the listed changes. -/
theorem exec_effect {i : Instr} {s t : State} (h : exec i s = .next t) : Effect i s t := by
  cases i with
  | feedSearchingData b => exact (execFeedSearchingData_next.mp h).2 ▸ .unchanged
  | feedSearchingEnd => exact (execFeedSearchingEnd_next.mp h).2 ▸ .unchanged
  | feedSearchingEsc => exact (execFeedSearchingEsc_next.mp h).2 ▸ .unchanged
  | feedSearchingStart =>
    obtain ⟨hrow, rfl⟩ := execFeedSearchingStart_next.mp h
    exact .frameBegun hrow
  | feedReadingData b =>
    obtain ⟨⟨hrow, -⟩, rfl⟩ := execFeedReadingData_next.mp h
    exact .byteAppended b hrow
  | feedReadingEsc =>
    obtain ⟨hrow, rfl⟩ := execFeedReadingEsc_next.mp h
    exact .escapeBegun hrow
  | feedReadingStart =>
    obtain ⟨hrow, rfl⟩ := execFeedReadingStart_next.mp h
    exact .frameRestarted hrow
  | feedReadingEnd =>
    obtain ⟨hrow, rfl⟩ := execFeedReadingEnd_next.mp h
    exact effect_frameCompletion hrow
  | feedReadingEscapedData b =>
    obtain ⟨⟨hrow, -⟩, rfl⟩ := execFeedReadingEscapedData_next.mp h
    exact .escapedAppended b hrow
  | feedReadingEscapedEnd =>
    obtain ⟨hrow, rfl⟩ := execFeedReadingEscapedEnd_next.mp h
    exact .escapedAppended _ hrow
  | feedReadingEscapedEsc =>
    obtain ⟨hrow, rfl⟩ := execFeedReadingEscapedEsc_next.mp h
    exact .escapedAppended _ hrow
  | feedReadingEscapedStart =>
    obtain ⟨hrow, rfl⟩ := execFeedReadingEscapedStart_next.mp h
    exact .escapedAppended _ hrow
  | feedNotAccepted b => exact (execFeedNotAccepted_next.mp h).2 ▸ .unchanged
  | reg rsv tag hid =>
    rw [← execReg_next.mp h]
    split
    case isTrue hphase => exact effect_register hphase rsv tag hid
    case isFalse => exact .unchanged
  | lock ign =>
    rw [← execLock_next.mp h]
    split
    case isTrue hphase => exact .locked hphase
    case isFalse => exact .unchanged
  | cfgRsv op0 ign => exact execCfgRsv_next.mp h ▸ .unchanged
  | dack =>
    obtain ⟨⟨hdispatch, -⟩, rfl⟩ := execDack_next.mp h
    exact .dispatchEnded hdispatch
  | moveExec =>
    obtain ⟨⟨hdispatch, -⟩, rfl⟩ := execMoveExec_next.mp h
    obtain ⟨x, y, hwrite⟩ := moveWrite_cases s
    exact hwrite ▸ .moveFinished x y rfl hdispatch
  | reset => exact execReset_next.mp h ▸ .blockReset rfl
  | readOut => exact execReadOut_next.mp h ▸ .sampled

/-! ### The outputs, the configuration error and the trace -/

/-- Settles O44: no other change touches the output pair. -/
theorem outputsChangeOnlyByMoveExecAndReset : Obligations.OutputsChangeOnlyByMoveExecAndReset := by
  intro i s t h hmove hreset
  cases exec_effect h with
  | moveFinished x y hi => exact absurd hi hmove
  | blockReset hi => exact absurd hi hreset
  | _ => exact ⟨rfl, rfl⟩

/-- An operation keeps `CFG_ERR`, sets it as a duplicate registration, or clears it as `RESET` (10_state.md R26). -/
theorem exec_cfgErr {i : Instr} {s t : State} (h : exec i s = .next t) :
    t.cfgErr = s.cfgErr ∨
    (t.cfgErr = true ∧ s.phase = .config ∧ ∃ rsv tag hid, i = .reg rsv tag hid ∧ (entryAt s tag).v = true) ∨
    (t.cfgErr = false ∧ i = .reset) := by
  cases exec_effect h with
  | duplicateRefused rsv tag hid hi hphase hv => exact .inr (.inl ⟨rfl, hphase, rsv, tag, hid, hi, hv⟩)
  | blockReset hi => exact .inr (.inr ⟨rfl, hi⟩)
  | _ => exact .inl rfl

/-- Settles O46: of the three things an operation does to `CFG_ERR`, one sets it and one clears it. -/
theorem configurationErrorIsSticky : Obligations.ConfigurationErrorIsSticky := by
  intro i s t h
  obtain hkept | ⟨hset, hdup⟩ | ⟨hcleared, hreset⟩ := exec_cfgErr h
  · simp +contextual [hkept]
  · exact ⟨fun _ _ => hdup, fun _ h0 => by simp [hset] at h0⟩
  · exact ⟨fun _ h1 => by simp [hcleared] at h1, fun _ _ => hreset⟩

/-- Settles O47: dispatch entry is the one change that touches the trace, and its event is the decoded frame with the
entry found for its tag. -/
theorem traceGrowsOnlyByFrameCompletion : Obligations.TraceGrowsOnlyByFrameCompletion := by
  intro i s t h
  cases exec_effect h with
  | dispatchEntered hi hrow _ hlen hvalid =>
    obtain ⟨hphase, hdst⟩ := hrow
    have hframe := decodedFrame_eq_tag_cons (Nat.one_le_iff_ne_zero.mpr hlen)
    exact .inr ⟨hi, hphase, hdst, rfl, rfl, rfl, frameEvent s (entryAt s (frameTag s)).hid, rfl, hframe.symm,
      congrArg (DispatchEntry.mk · _) hvalid⟩
  | _ => exact .inl rfl

/-! ### The invariants of R33 -/

/-- In `SEARCHING` with an empty buffer what is left of the invariant is the configuration and the error flag. -/
theorem inv_of_searching {s : State} (hdst : s.dst = .searching) (hlen : s.blen = 0) (hovf : s.ovf = false)
    (hlegal : s.config.Legal) (hhalt : s.HaltHasError) (hrun : s.RunHasNoError) : s.Inv :=
  ⟨hlegal, by simp [hlen], by simp [hovf], fun _ => ⟨hlen, hovf⟩, fun _ => hdst, by simp [hdst], hhalt, hrun⟩

/-- Inside a frame what is left of the invariant is the configuration, the buffer's bounds and the error flag. -/
theorem inv_of_frame {s : State} (hphase : s.phase = .run) (hdst : s.dst = .reading ∨ s.dst = .readingEscaped)
    (hlegal : s.config.Legal) (hbound : s.LengthBounded) (hfull : s.OverflowOnlyWhenFull) (herr : s.cfgErr = false) :
    s.Inv := by
  obtain hdst | hdst := hdst <;>
    exact ⟨hlegal, hbound, hfull, by simp [hdst], by simp [hphase], by simp [hdst], by simp [hphase], fun _ => herr⟩

theorem append_lengthBounded {s : State} (h : s.LengthBounded) (v : Byte) : (append v s).LengthBounded := by
  by_cases hroom : s.blen < s.config.bufCap
  · rw [append_of_room hroom]
    exact hroom
  · rw [append_of_full hroom]
    exact h

/-- `OVF` is set by `Append` only in a full buffer, and it is 0 while there is room (40_feed.md R101). -/
theorem append_overflowOnlyWhenFull {s : State} (hbound : s.LengthBounded) (hfull : s.OverflowOnlyWhenFull) (v : Byte) :
    (append v s).OverflowOnlyWhenFull := by
  by_cases hroom : s.blen < s.config.bufCap
  · rw [append_of_room hroom]
    exact fun hovf => absurd (hfull hovf) hroom.ne
  · rw [append_of_full hroom]
    exact fun _ => le_antisymm hbound (not_lt.mp hroom)

/-- Every change an operation can make keeps the invariant: it leaves an empty buffer in `SEARCHING`, a frame in
progress, or a dispatch of the frame whose tag was just found. -/
theorem Effect.keeps_inv {i : Instr} {s t : State} (h : Effect i s t) (hinv : s.Inv) : t.Inv := by
  have ⟨hlegal, hbound, hfull, hempty, hclosed, _, hhalt, hrun⟩ := hinv
  have hconfig (hphase : s.phase = .config) : s.dst = .searching ∧ s.blen = 0 ∧ s.ovf = false := by
    have hdst := hclosed (by simp [hphase])
    exact ⟨hdst, hempty hdst⟩
  cases h with
  | unchanged => exact hinv
  | sampled => exact hinv
  | frameBegun hrow => exact inv_of_frame hrow.1 (.inl rfl) hlegal (Nat.zero_le _) nofun (hrun hrow.1)
  | frameRestarted hrow => exact inv_of_frame hrow.1 (.inl hrow.2) hlegal (Nat.zero_le _) nofun (hrun hrow.1)
  | byteAppended b hrow =>
    exact inv_of_frame hrow.1 (.inl hrow.2) hlegal (append_lengthBounded hbound b)
      (append_overflowOnlyWhenFull hbound hfull b) (hrun hrow.1)
  | escapeBegun hrow => exact inv_of_frame hrow.1 (.inr rfl) hlegal hbound hfull (hrun hrow.1)
  | escapedAppended b hrow =>
    exact inv_of_frame hrow.1 (.inl rfl) hlegal (append_lengthBounded hbound (unescape s.config b))
      (append_overflowOnlyWhenFull hbound hfull (unescape s.config b)) (hrun hrow.1)
  | frameDropped k => exact inv_of_searching rfl rfl rfl hlegal hhalt hrun
  | dispatchEntered _ hrow hovf hlen hvalid =>
    obtain ⟨hphase, -⟩ := hrow
    exact ⟨hlegal, hbound, hfull, nofun, fun hp => absurd hphase hp,
      fun _ => ⟨hphase, Nat.one_le_iff_ne_zero.mpr hlen, hovf, hvalid⟩, hhalt, hrun⟩
  | dispatchEnded => exact inv_of_searching rfl rfl rfl hlegal hhalt hrun
  | moveFinished => exact inv_of_searching rfl rfl rfl hlegal hhalt hrun
  | tagRegistered tag e hphase =>
    obtain ⟨hdst, hlen, hovf⟩ := hconfig hphase
    exact inv_of_searching hdst hlen hovf hlegal hhalt hrun
  | duplicateRefused rsv tag hid _ hphase =>
    obtain ⟨hdst, hlen, hovf⟩ := hconfig hphase
    exact inv_of_searching hdst hlen hovf hlegal (fun _ => rfl) (by simp [hphase])
  | locked hphase =>
    obtain ⟨hdst, hlen, hovf⟩ := hconfig hphase
    exact inv_of_searching hdst hlen hovf hlegal (by simp [State.HaltHasError]) (by simp [State.RunHasNoError])
  | blockReset => exact inv_of_searching rfl rfl rfl hlegal nofun nofun

/-- Settles O41: the reset state searches with an empty buffer in `CONFIG`. -/
theorem resetStateSatisfiesTheInvariant : Obligations.ResetStateSatisfiesTheInvariant := by
  have hreset (c : Config) (hlegal : c.Legal) : (State.resetWith c).Inv :=
    inv_of_searching rfl rfl rfl hlegal nofun nofun
  exact ⟨hreset Config.ref (by decide), hreset⟩

/-- Settles O42: the agents' inputs are no part of the invariant, and every operation of the edge keeps it. -/
theorem everyStepKeepsTheInvariant : Obligations.EveryStepKeepsTheInvariant := by
  intro s t hinv hstep
  obtain ⟨-, hrun⟩ := step_eq_next_iff.mp hstep
  have htaken : (takeEdge s).Inv := hinv
  exact execAll_keeps (P := State.Inv) (fun _ _ _ _ hu hexec => (exec_effect hexec).keeps_inv hu) htaken hrun

end Sys2Proof.Machine

/-! PROOFS. The memory statements (20_memory.md): the byte an append adds to the decoded frame, and the Dispatch Table that
nothing but a reset changes once the configuration phase is over. -/

namespace Sys2Proof.Machine

/-! ### The decoded frame -/

/-- Settles O25: both rows append with room, the data byte itself and the escaped one through `UNESC`. -/
theorem appendExtendsTheDecodedFrame : Obligations.AppendExtendsTheDecodedFrame := by
  intro s t b hinv hphase hroom
  obtain ⟨hlegal, -⟩ := hinv
  refine ⟨fun _ hexec => ?_, fun hdst hfeed => ?_⟩
  · obtain ⟨-, rfl⟩ := execFeedReadingData_next.mp hexec
    exact decodedFrame_append_of_room hlegal hroom b
  · obtain rfl : appendEscaped b s = t := by
      rw [feedByte_escaped hphase hdst] at hfeed
      injection hfeed
    exact decodedFrame_append_of_room hlegal hroom (unescape s.config b)

/-! ### The Dispatch Table outside `CONFIG` -/

/-- With `rst = 0` none of the four parts of an edge's operations holds `RESET` (60_exceptions.md R203). -/
theorem ne_reset_of_mem_edgeOps {s : State} {e : Edge} (hrst : e.rst = false) {i : Instr} (h : i ∈ edgeOps s e) :
    i ≠ .reset := by
  rintro rfl
  simp only [edgeOps_of_run s hrst, List.mem_append] at h
  obtain hsample | hrx | hhandler | hcfg := h
  · split at hsample <;> simp at hsample
  · cases hb : e.rx with
    | none => simp [hb, rxOps] at hrx
    | some b =>
      have hrow : .reset = decodeRx s.config (selectCtx s) b := by simpa [hb, rxOps] using hrx
      have hport := decodeRx_format s.config (selectCtx s) b
      simp [← hrow, Instr.format] at hport
  · unfold handlerOps at hhandler
    split_ifs at hhandler <;> simp at hhandler
  · cases hw : e.cfg with
    | none => simp [hw, cfgOps] at hcfg
    | some w =>
      have hrow : .reset = decodeCfg w := by simpa [hw, cfgOps] using hcfg
      have hport := decodeCfg_format w
      simp [← hrow, Instr.format] at hport

/-- Registration and `LOCK` act in `CONFIG` alone, so outside it only `RESET` changes the Dispatch Table or `PHASE`
(20_memory.md R61, 60_exceptions.md R207). -/
theorem exec_dtab_phase_of_locked {i : Instr} {s t : State} (h : exec i s = .next t) (hi : i ≠ .reset)
    (hphase : s.phase ≠ .config) : t.dtab = s.dtab ∧ t.phase = s.phase := by
  cases exec_effect h with
  | tagRegistered tag e hconfig => exact absurd hconfig hphase
  | locked hconfig => exact absurd hconfig hphase
  | blockReset hreset => exact absurd hreset hi
  | _ => exact ⟨rfl, rfl⟩

/-- Settles O43: no operation of an edge with `rst = 0` is `RESET`, and each other one keeps the table and the phase. -/
theorem dispatchTableIsFrozenOutsideConfig : Obligations.DispatchTableIsFrozenOutsideConfig := by
  intro s t hphase hrst hstep
  obtain ⟨-, hrun⟩ := step_eq_next_iff.mp hstep
  refine execAll_keeps (P := fun u => u.dtab = s.dtab ∧ u.phase = s.phase) ?_
    ⟨takeEdge_dtab s, takeEdge_phase s⟩ hrun
  rintro i hmem u v ⟨hdtab, hu⟩ hexec
  obtain ⟨hdtab', hv⟩ := exec_dtab_phase_of_locked hexec (ne_reset_of_mem_edgeOps hrst hmem) (hu ▸ hphase)
  exact ⟨hdtab'.trans hdtab, hv.trans hu⟩

end Sys2Proof.Machine

/-! PROOFS. The encoding statements (30_encoding.md): the class of a byte, the layout of the configuration word, the round
trip of decoder and encoder in both directions, the MOVE fields, the ports, and the wire format of a frame. -/

namespace Sys2Proof

/-! ### The class of a byte (30_encoding.md R73) -/

theorem classOf_eq_start_iff (c : Config) (b : Byte) : classOf c b = .start ↔ b = c.pStart := by
  unfold classOf
  split_ifs <;> simp_all

theorem classOf_eq_endMark_iff {c : Config} (hlegal : c.Legal) (b : Byte) : classOf c b = .endMark ↔ b = c.pEnd := by
  refine ⟨fun hclass => ?_, fun hb => hb ▸ classOf_pEnd hlegal⟩
  unfold classOf at hclass
  split_ifs at hclass with _ hend
  exact hend

theorem classOf_eq_esc_iff {c : Config} (hlegal : c.Legal) (b : Byte) : classOf c b = .esc ↔ b = c.pEsc := by
  refine ⟨fun hclass => ?_, fun hb => hb ▸ classOf_pEsc hlegal⟩
  unfold classOf at hclass
  split_ifs at hclass with _ _ hesc
  exact hesc

/-- Settles O2: each marker has its class because the markers are distinct, and DATA is the class of no marker. -/
theorem everyByteHasExactlyOneClass : Obligations.EveryByteHasExactlyOneClass := by
  intro c b hlegal
  refine ⟨classOf_eq_start_iff c b, classOf_eq_endMark_iff hlegal b, classOf_eq_esc_iff hlegal b, ?_⟩
  rw [classOf_eq_data_iff, not_or, not_or]

/-! ### The configuration word (30_encoding.md R77) -/

theorem decodeCfg_of_reg {w : CfgWord} (hop : cfgOp w = 0b00#2) :
    decodeCfg w = .reg (cfgRsvField w) (cfgTag w) (cfgHid w) := if_pos hop

theorem decodeCfg_of_lock {w : CfgWord} (hop : cfgOp w = 0b01#2) : decodeCfg w = .lock (cfgIgn w) := by
  simp [decodeCfg, hop]

theorem decodeCfg_of_reserved {w : CfgWord} (hreg : cfgOp w ≠ 0b00#2) (hlock : cfgOp w ≠ 0b01#2) :
    decodeCfg w = .cfgRsv (w.extractLsb' 14 1) (cfgIgn w) := by
  simp [decodeCfg, hreg, hlock]

/-- Bit 14 of the word is the low bit of `OP`. -/
theorem extractLsb'_cfgOp (w : CfgWord) : (cfgOp w).extractLsb' 0 1 = w.extractLsb' 14 1 := by
  ext i hi
  simp [cfgOp]
  omega

/-- A reserved word keeps the low bit of its `OP` (30_encoding.md R78). -/
theorem decodeCfg_of_reserved_op {w : CfgWord} {op : BitVec 2} (hop : cfgOp w = op) (hreg : op ≠ 0b00#2)
    (hlock : op ≠ 0b01#2) : decodeCfg w = .cfgRsv (op.extractLsb' 0 1) (cfgIgn w) := by
  subst hop
  rw [decodeCfg_of_reserved hreg hlock, extractLsb'_cfgOp]

/-- Settles O1: the four values of `OP` take the three branches of the decoder, and the fields are the bits of R77. -/
theorem configurationWordFieldsDecode : Obligations.ConfigurationWordFieldsDecode := by
  intro c x w
  refine ⟨fun hop => ?_, fun hop => ?_, fun hop => ?_, fun hop => ?_⟩
  · exact congrArg Except.ok (decodeCfg_of_reg hop)
  · exact congrArg Except.ok (decodeCfg_of_lock hop)
  · exact congrArg Except.ok (decodeCfg_of_reserved_op hop (by decide) (by decide))
  · exact congrArg Except.ok (decodeCfg_of_reserved_op hop (by decide) (by decide))

/-- `OP` and the bits below it are the whole word. -/
theorem cfgOp_append_cfgIgn (w : CfgWord) : cfgOp w ++ cfgIgn w = w := by
  ext i hi
  simp [cfgOp, cfgIgn]
  grind

/-- `OP`, `RSV`, `TAG` and `HID` are the whole word. -/
theorem cfgOp_append_fields (w : CfgWord) : cfgOp w ++ cfgRsvField w ++ cfgTag w ++ cfgHid w = w := by
  ext i hi
  simp [cfgOp, cfgRsvField, cfgTag, cfgHid]
  grind

theorem reserved_op_high_bit : ∀ op : BitVec 2, op ≠ 0b00#2 → op ≠ 0b01#2 → 0b1#1 ++ op.extractLsb' 0 1 = op := by
  decide

theorem encode_decodeCfg (c : Config) (w : CfgWord) : encode c (decodeCfg w) = .cfg w := by
  by_cases hreg : cfgOp w = 0b00#2
  · rw [decodeCfg_of_reg hreg, encode, ← hreg, cfgOp_append_fields]
  by_cases hlock : cfgOp w = 0b01#2
  · rw [decodeCfg_of_lock hlock, encode, ← hlock, cfgOp_append_cfgIgn]
  · rw [decodeCfg_of_reserved hreg hlock, encode, ← extractLsb'_cfgOp, reserved_op_high_bit _ hreg hlock,
      cfgOp_append_cfgIgn]

/-- A configuration word selects its operation in every context, and every one is well formed (30_encoding.md R78). -/
theorem decodeCfg_wellFormed_selected (c : Config) (x : SelectCtx) (w : CfgWord) :
    (decodeCfg w).wellFormed c = true ∧ (decodeCfg w).selectedIn x = true := by
  unfold decodeCfg
  split_ifs <;> exact ⟨rfl, rfl⟩

/-! ### The row of an offered byte (30_encoding.md R82) -/

/-- The row that `decodeRx` takes in phase `RUN`, as one function of `DST` and of the byte's class. -/
def runRow : DecoderState → Byte → ByteClass → Instr
  | .searching, b, k => searchingRow b k
  | .reading, b, k => readingRow b k
  | .readingEscaped, b, k => escapedRow b k
  | .done, b, _ => .feedNotAccepted b

theorem decodeRx_of_run (c : Config) {x : SelectCtx} (hp : x.phase = .run) (b : Byte) :
    decodeRx c x b = runRow x.dst b (classOf c b) := by
  rw [decodeRx, if_pos hp]
  cases x.dst <;> rfl

theorem runRow_selectedIn {x : SelectCtx} {d : DecoderState} (hp : x.phase = .run) (hd : x.dst = d) (b : Byte)
    (k : ByteClass) : (runRow d b k).selectedIn x = true := by
  have hrow : decide (x.phase = .run ∧ x.dst = d) = true := decide_eq_true ⟨hp, hd⟩
  cases d with
  | done => exact decide_eq_true (.inl hd)
  | _ => cases k <;> exact hrow

/-- The rows of class DATA take a byte that is no marker, and no other row of `RUN` asks for anything. -/
theorem runRow_wellFormed (c : Config) (d : DecoderState) (b : Byte) : (runRow d b (classOf c b)).wellFormed c = true := by
  cases hclass : classOf c b with
  | data =>
    have hb : (!decide (c.IsMarker b)) = true := by simpa using (classOf_eq_data_iff c b).mp hclass
    cases d with
    | done => rfl
    | _ => exact hb
  | _ => cases d <;> rfl

/-- The row's byte is the one it was selected for: the operand of a DATA row, the marker of the others. -/
theorem encode_runRow {c : Config} (hlegal : c.Legal) (d : DecoderState) (b : Byte) :
    encode c (runRow d b (classOf c b)) = .rx b := by
  cases hclass : classOf c b with
  | start =>
    obtain rfl := (classOf_eq_start_iff c b).mp hclass
    cases d <;> rfl
  | endMark =>
    obtain rfl := (classOf_eq_endMark_iff hlegal b).mp hclass
    cases d <;> rfl
  | esc =>
    obtain rfl := (classOf_eq_esc_iff hlegal b).mp hclass
    cases d <;> rfl
  | data => cases d <;> rfl

/-- A byte of class `k` in phase `RUN` and decoder state `d` selects the row of the pair. -/
theorem decode_rx_of_class {c : Config} {x : SelectCtx} {d : DecoderState} {b : Byte} {k : ByteClass}
    (hsel : decide (x.phase = .run ∧ x.dst = d) = true) (hclass : classOf c b = k) :
    decode c x (.rx b) = .ok (runRow d b k) := by
  obtain ⟨hp, hd⟩ := of_decide_eq_true hsel
  rw [decode, decodeRx_of_run c hp, hd, hclass]

theorem classOf_of_not_isMarker {c : Config} {b : Byte} (h : (!decide (c.IsMarker b)) = true) :
    classOf c b = .data :=
  (classOf_eq_data_iff c b).mpr (by simpa using h)

/-! ### The round trips -/

/-- Settles O3: the encoder's byte has the class of the operation's row, and the encoder's configuration word has the
fields of the operation. -/
theorem decodeInvertsEncode : Obligations.DecodeInvertsEncode := by
  intro c x i hlegal hwf hsel
  cases i with
  | feedSearchingData b => exact decode_rx_of_class hsel (classOf_of_not_isMarker hwf)
  | feedSearchingEnd => exact decode_rx_of_class hsel (classOf_pEnd hlegal)
  | feedSearchingEsc => exact decode_rx_of_class hsel (classOf_pEsc hlegal)
  | feedSearchingStart => exact decode_rx_of_class hsel (classOf_pStart c)
  | feedReadingData b => exact decode_rx_of_class hsel (classOf_of_not_isMarker hwf)
  | feedReadingEsc => exact decode_rx_of_class hsel (classOf_pEsc hlegal)
  | feedReadingStart => exact decode_rx_of_class hsel (classOf_pStart c)
  | feedReadingEnd => exact decode_rx_of_class hsel (classOf_pEnd hlegal)
  | feedReadingEscapedData b => exact decode_rx_of_class hsel (classOf_of_not_isMarker hwf)
  | feedReadingEscapedEnd => exact decode_rx_of_class hsel (classOf_pEnd hlegal)
  | feedReadingEscapedEsc => exact decode_rx_of_class hsel (classOf_pEsc hlegal)
  | feedReadingEscapedStart => exact decode_rx_of_class hsel (classOf_pStart c)
  | feedNotAccepted b => exact congrArg Except.ok (decodeRx_of_closed c (of_decide_eq_true hsel) b)
  | reg rsv tag hid =>
    obtain ⟨hop, hrsv, htag, hhid⟩ := cfgFields_of_reg rsv tag hid
    rw [encode, decode, decodeCfg_of_reg hop, hrsv, htag, hhid]
  | lock ign =>
    obtain ⟨hop, hign⟩ := cfgFields_of_lock ign
    rw [encode, decode, decodeCfg_of_lock hop, hign]
  | cfgRsv op0 ign =>
    obtain ⟨hop, hlow, hign⟩ := cfgFields_of_cfgRsv op0 ign
    have hreserved : ∀ low : BitVec 1, 0b1#1 ++ low ≠ 0b00#2 ∧ 0b1#1 ++ low ≠ 0b01#2 := by decide
    obtain ⟨hreg, hlock⟩ := hreserved op0
    rw [encode, decode, decodeCfg_of_reserved (hop.trans_ne hreg) (hop.trans_ne hlock), hlow, hign]
  | dack => exact if_pos (of_decide_eq_true hsel)
  | moveExec => exact if_pos (of_decide_eq_true hsel)
  | reset => rfl
  | readOut => rfl

/-- An offered byte selects a well-formed row of its context, and the row encodes back to the byte. -/
theorem decodeRx_wellFormed_selected_encode {c : Config} (hlegal : c.Legal) (x : SelectCtx) (b : Byte) :
    (decodeRx c x b).wellFormed c = true ∧ (decodeRx c x b).selectedIn x = true ∧
      encode c (decodeRx c x b) = .rx b := by
  by_cases hp : x.phase = .run
  · rw [decodeRx_of_run c hp]
    exact ⟨runRow_wellFormed c x.dst b, runRow_selectedIn hp rfl b _, encode_runRow hlegal x.dst b⟩
  · rw [decodeRx_of_closed c (.inr hp)]
    exact ⟨rfl, decide_eq_true (.inr hp), rfl⟩

/-- Settles O4: a byte by its row, a configuration word by its fields, and the port words without bits by their guard. -/
theorem encodeInvertsDecode : Obligations.EncodeInvertsDecode := by
  intro c x w i hlegal hdecode
  cases w with
  | rx b =>
    obtain rfl : decodeRx c x b = i := Except.ok.inj hdecode
    exact decodeRx_wellFormed_selected_encode hlegal x b
  | cfg w =>
    obtain rfl : decodeCfg w = i := Except.ok.inj hdecode
    obtain ⟨hwf, hsel⟩ := decodeCfg_wellFormed_selected c x w
    exact ⟨hwf, hsel, encode_decodeCfg c w⟩
  | dsp =>
    rw [decode] at hdecode
    split_ifs at hdecode with hguard
    obtain rfl := Except.ok.inj hdecode
    exact ⟨rfl, decide_eq_true hguard, rfl⟩
  | internal =>
    rw [decode] at hdecode
    split_ifs at hdecode with hguard
    obtain rfl := Except.ok.inj hdecode
    exact ⟨rfl, decide_eq_true hguard, rfl⟩
  | rst =>
    obtain rfl := Except.ok.inj hdecode
    exact ⟨rfl, rfl, rfl⟩
  | status =>
    obtain rfl := Except.ok.inj hdecode
    exact ⟨rfl, rfl, rfl⟩

/-- Settles O5: each word is decoded by evaluation. -/
theorem wordsOfTheTableDecode : Obligations.WordsOfTheTableDecode :=
  ⟨rfl, rfl, rfl, rfl, rfl, rfl, rfl, rfl, rfl, rfl, rfl, rfl, rfl, rfl, rfl, rfl, rfl, rfl⟩

end Sys2Proof

namespace Sys2Proof.Machine

/-! ### The fields of the MOVE handler (30_encoding.md R80) -/

/-- One byte more at the lower index is one byte more at the less significant end. -/
theorem ofNat_leValue_cons (n : Nat) (b : Byte) (bs : List Byte) :
    BitVec.ofNat (n + 8) (leValue (b :: bs)) = BitVec.ofNat n (leValue bs) ++ b := by
  have hb : b.toNat < 2 ^ 8 := b.isLt
  have hlow : leValue (b :: bs) % 2 ^ 8 = b.toNat := by
    rw [leValue]
    omega
  have hhigh : leValue (b :: bs) / 2 ^ 8 = leValue bs := by
    rw [leValue]
    omega
  apply BitVec.eq_of_toNat_eq
  calc (BitVec.ofNat (n + 8) (leValue (b :: bs))).toNat
      = leValue (b :: bs) % (2 ^ 8 * 2 ^ n) := by rw [BitVec.toNat_ofNat, Nat.add_comm n, Nat.pow_add]
    _ = b.toNat + 2 ^ 8 * (leValue bs % 2 ^ n) := by rw [Nat.mod_mul, hlow, hhigh]
    _ = (BitVec.ofNat n (leValue bs) ++ b).toNat := by
      rw [BitVec.toNat_append, ← Nat.shiftLeft_add_eq_or_of_lt hb, Nat.shiftLeft_eq, BitVec.toNat_ofNat]
      omega

theorem ofNat_leValue_one (b0 : Byte) : BitVec.ofNat 8 (leValue [b0]) = b0 := by
  simp [leValue]

theorem ofNat_leValue_two (b0 b1 : Byte) : BitVec.ofNat 16 (leValue [b0, b1]) = b1 ++ b0 := by
  rw [ofNat_leValue_cons 8, ofNat_leValue_one]

theorem ofNat_leValue_four (b0 b1 b2 b3 : Byte) :
    BitVec.ofNat 32 (leValue [b0, b1, b2, b3]) = b3 ++ b2 ++ b1 ++ b0 := by
  rw [ofNat_leValue_cons 24, ofNat_leValue_cons 16, ofNat_leValue_two]

/-- A field reads the bytes behind its offset. -/
theorem fieldLE_at_length (before p : List Byte) (F : Nat) :
    fieldLE (before ++ p) before.length F = BitVec.ofNat (8 * F) (leValue (p.take F)) := by
  rw [fieldLE, List.drop_left]

theorem fieldLE_one (before more : List Byte) (b0 : Byte) :
    fieldLE (before ++ b0 :: more) before.length 1 = b0 :=
  (fieldLE_at_length before _ 1).trans (ofNat_leValue_one b0)

theorem fieldLE_two (before more : List Byte) (b0 b1 : Byte) :
    fieldLE (before ++ b0 :: b1 :: more) before.length 2 = b1 ++ b0 :=
  (fieldLE_at_length before _ 2).trans (ofNat_leValue_two b0 b1)

theorem fieldLE_four (before more : List Byte) (b0 b1 b2 b3 : Byte) :
    fieldLE (before ++ b0 :: b1 :: b2 :: b3 :: more) before.length 4 = b3 ++ b2 ++ b1 ++ b0 :=
  (fieldLE_at_length before _ 4).trans (ofNat_leValue_four b0 b1 b2 b3)

/-- A field of 32 bits needs no extension. -/
theorem extendField_outWord (signed : Bool) (v : OutWord) : extendField signed v = v := by
  cases signed <;> simp [extendField]

/-- Settles O33: `XField` is the field at offset 0, `YField` the one behind the bytes of `XField`. -/
theorem moveFieldsAreLittleEndianAndExtended : Obligations.MoveFieldsAreLittleEndianAndExtended := by
  intro c x0 x1 x2 x3 y0 y1 y2 y3 before more
  refine ⟨fieldLE_one before more x0, fieldLE_two before more x0 x1, fieldLE_four before more x0 x1 x2 x3,
    fun hfb => ?_, fun hfb => ?_, fun hfb => ?_⟩
  · rw [xField_of_moveFb hfb, yField_of_moveFb hfb]
    exact ⟨congrArg (extendField c.moveSigned) (fieldLE_one [] _ x0),
      congrArg (extendField c.moveSigned) (fieldLE_one [x0] _ y0)⟩
  · rw [xField_of_moveFb hfb, yField_of_moveFb hfb]
    exact ⟨congrArg (extendField c.moveSigned) (fieldLE_two [] _ x0 x1),
      congrArg (extendField c.moveSigned) (fieldLE_two [x0, x1] _ y0 y1)⟩
  · rw [xField_of_moveFb hfb, yField_of_moveFb hfb]
    exact ⟨(congrArg (extendField c.moveSigned) (fieldLE_four [] _ x0 x1 x2 x3)).trans (extendField_outWord _ _),
      (congrArg (extendField c.moveSigned) (fieldLE_four [x0, x1, x2, x3] _ y0 y1 y2 y3)).trans
        (extendField_outWord _ _)⟩

/-! ### The ports (30_encoding.md R72, R79, 20_memory.md R51) -/

theorem rxReady_eq_true_iff (s : State) (rst : Bool) : rxReady s rst = true ↔ rst = false ∧ s.Accepts :=
  decide_eq_true_iff

/-- Settles O37: the port output is `rxReady`. -/
theorem byteAcceptedOnlyInRunOutsideADispatch : Obligations.ByteAcceptedOnlyInRunOutsideADispatch :=
  fun s rst _ => rxReady_eq_true_iff s rst

theorem dspValid_eq_true_iff (s : State) (rst : Bool) : dspValid s rst = true ↔ s.dst = .done ∧ rst = false :=
  decide_eq_true_iff

theorem dspValid_eq_false_iff (s : State) (rst : Bool) : dspValid s rst = false ↔ ¬ (s.dst = .done ∧ rst = false) :=
  decide_eq_false_iff_not

/-- Payload byte `i` is cell `1 + i` of `BUF`. -/
theorem framePayload_getElem? {s : State} {i : Nat} (hi : i < s.blen - 1) (hcell : 1 + i < 256) :
    (framePayload s)[i]? = some s.buf[1 + i] := by
  have hframe : 1 + i < s.blen := by omega
  rw [framePayload, decodedFrame, List.getElem?_drop, List.getElem?_take_of_lt hframe, Vector.getElem?_toList,
    Vector.getElem?_eq_getElem hcell]

/-- An address below the payload's length fits the `LW` wires of the port. -/
theorem readAddress_of_lt_payload {s : State} {a : Byte} (hbound : s.LengthBounded) (ha : a.toNat < s.blen - 1) :
    readAddress s.config a = a.toNat := by
  have hcap := bufCap_le_two_pow_lenWidth s.config
  exact Nat.mod_eq_of_lt (by omega)

theorem dspRdata_of_payload {s : State} {a : Byte} (hdone : s.dst = .done) (hbound : s.LengthBounded)
    (ha : a.toNat < s.blen - 1) (hcell : 1 + a.toNat < 256) : dspRdata s a = s.buf[1 + a.toNat] := by
  simp [dspRdata, hdone, readAddress_of_lt_payload hbound ha, framePayload_getElem? ha hcell]

/-- Settles O38: with `dsp_valid = 1` no output is a free value, and the read address is in range by (I1). -/
theorem dispatchOutputsPresentTheFrame : Obligations.DispatchOutputsPresentTheFrame := by
  intro s a hinv
  obtain ⟨-, hbound, -⟩ := hinv
  refine ⟨fun hdone => ?_, fun hdone rst hcell ha => dspRdata_of_payload hdone hbound ha hcell,
    fun hdone => (dspValid_eq_false_iff s false).mpr (by simp [hdone]), (dspValid_eq_false_iff s true).mpr (by simp)⟩
  have hvalid : dspValid s false = true := (dspValid_eq_true_iff s false).mpr ⟨hdone, rfl⟩
  exact ⟨hvalid, if_pos hvalid, if_pos hvalid, if_pos hvalid⟩

/-! ### A frame on the wire (30_encoding.md R75) -/

/-- The state after an accepted START marker outside an escape (40_feed.md R106, R109): a new frame, and the one it cuts
short recorded. -/
def beginFrame (s : State) : State :=
  { s with
    dst := .reading, blen := 0, ovf := false
    outcomes := s.outcomes ++ if s.dst = .reading then [.dropTrunc] else [] }

theorem feedByte_start {s : State} (hp : s.phase = .run) (hd : s.dst = .searching ∨ s.dst = .reading) :
    feedByte s.config.pStart s = .next (beginFrame s) := by
  obtain hd | hd := hd
  · rw [feedByte_searching_start hp hd]
    rw [beginFrame, if_neg (by simp [hd]), List.append_nil]
    rfl
  · rw [feedByte_reading_start hp hd, beginFrame, if_pos hd, ← hd]
    rfl

/-- `Append` of each byte in order. -/
def appendAll : List Byte → State → State
  | [], s => s
  | v :: vs, s => appendAll vs (append v s)

/-- Appending changes the Decode Buffer, its length and `OVF` alone. -/
theorem appendAll_frame (vs : List Byte) (s : State) :
    ∃ buf blen ovf, appendAll vs s = { s with buf := buf, blen := blen, ovf := ovf } := by
  induction vs generalizing s with
  | nil => exact ⟨s.buf, s.blen, s.ovf, rfl⟩
  | cons v vs ih =>
    obtain ⟨buf, blen, ovf, h⟩ := ih (append v s)
    exact ⟨buf, blen, ovf, h⟩

/-- Appended bytes extend the decoded frame as far as there is room. -/
theorem decodedFrame_appendAll {s : State} (hlegal : s.config.Legal) (hbound : s.LengthBounded) (vs : List Byte) :
    decodedFrame (appendAll vs s) = (decodedFrame s ++ vs).take s.config.bufCap := by
  have hlen : (decodedFrame s).length = s.blen := decodedFrame_length (hbound.trans hlegal.2.1.2)
  induction vs generalizing s with
  | nil => rw [appendAll, List.append_nil, List.take_of_length_le (hlen.trans_le hbound)]
  | cons v vs ih =>
    have hbound' := append_lengthBounded hbound v
    rw [appendAll, ih (s := append v s) hlegal hbound' (decodedFrame_length (hbound'.trans hlegal.2.1.2)), append_config]
    by_cases hroom : s.blen < s.config.bufCap
    · rw [decodedFrame_append_of_room hlegal hroom, List.append_assoc, List.singleton_append]
    · have hfull : s.config.bufCap = (decodedFrame s).length := hlen ▸ le_antisymm (not_lt.mp hroom) hbound
      rw [decodedFrame_append_of_full hroom, hfull, List.take_left, List.take_left]

/-- `OVF` is set by the first byte for which there is no room. -/
theorem appendAll_ovf {s : State} (hbound : s.LengthBounded) (vs : List Byte) :
    (appendAll vs s).ovf = true ↔ s.ovf = true ∨ s.config.bufCap < s.blen + vs.length := by
  induction vs generalizing s with
  | nil => simp [appendAll, hbound]
  | cons v vs ih =>
    rw [appendAll, ih (append_lengthBounded hbound v), append_ovf, append_blen, append_config, List.length_cons]
    split_ifs with hroom
    · rw [Nat.add_assoc, Nat.add_comm 1]
    · simp
      omega

/-- In `READING`, the bytes of legal items append the items' values, and all of them are consumed. -/
theorem feedAll_itemsBytes {s : State} {items : List WireItem} (hlegal : s.config.Legal) (hp : s.phase = .run)
    (hd : s.dst = .reading) (hitems : ∀ it ∈ items, itemLegal s.config it = true) :
    feedAll (itemsBytes s.config items) s = consumed (appendAll (items.map (itemValue s.config)) s) := by
  induction items generalizing s with
  | nil => rfl
  | cons it items ih =>
    obtain ⟨hit, hrest⟩ := List.forall_mem_cons.mp hitems
    rw [itemsBytes, List.flatMap_cons, feedAll_append_of_consumed (feedAll_itemBytes hlegal hp hd hit)]
    exact ih (s := append (itemValue s.config it) s) hlegal hp hd hrest

/-- START and any legal items begin a frame and append the items' values. -/
theorem feedAll_start_itemsBytes {s : State} {items : List WireItem} (hlegal : s.config.Legal) (hp : s.phase = .run)
    (hd : s.dst = .searching ∨ s.dst = .reading) (hitems : ∀ it ∈ items, itemLegal s.config it = true) :
    feedAll (s.config.pStart :: itemsBytes s.config items) s =
      consumed (appendAll (items.map (itemValue s.config)) (beginFrame s)) := by
  have haccepts : s.Accepts := ⟨hp, by obtain hd | hd := hd <;> simp [hd]⟩
  rw [feedAll_cons_of_accepts haccepts, feedByte_start hp hd, andThen_next]
  exact feedAll_itemsBytes (s := beginFrame s) hlegal hp rfl hitems

theorem feedAll_reading_end {s : State} (hlegal : s.config.Legal) (hp : s.phase = .run) (hd : s.dst = .reading) :
    feedAll [s.config.pEnd] s = consumed (frameCompletion s) := by
  rw [feedAll_cons_of_accepts ⟨hp, by simp [hd]⟩, feedByte_reading_end hlegal hp hd, andThen_next, feedAll_nil]

/-- Settles O51: START leaves an empty frame, each item appends its value, and END completes what was appended. -/
theorem wireFrameDecodesToItsItems : Obligations.WireFrameDecodesToItsItems := by
  intro s items hlegal hp hd hitems
  have hopen := feedAll_start_itemsBytes hlegal hp hd hitems
  have hbound : (beginFrame s).LengthBounded := Nat.zero_le _
  have hframe := decodedFrame_appendAll (s := beginFrame s) hlegal hbound (items.map (itemValue s.config))
  have hovf := appendAll_ovf hbound (items.map (itemValue s.config))
  obtain ⟨buf, blen, ovf, happ⟩ := appendAll_frame (items.map (itemValue s.config)) (beginFrame s)
  generalize appendAll (items.map (itemValue s.config)) (beginFrame s) = u at *
  have hconfig : u.config = s.config := happ ▸ rfl
  have hphase : u.phase = .run := happ ▸ hp
  have hdst : u.dst = .reading := happ ▸ rfl
  refine ⟨u, hopen, hphase, hdst, ?_, ?_, happ ▸ rfl, frameCompletion u,
    execFeedReadingEnd_next.mpr ⟨⟨hphase, hdst⟩, rfl⟩, ?_⟩
  · simpa [beginFrame, decodedFrame] using hframe
  · simpa [beginFrame] using hovf
  · rw [wireFrame, ← List.cons_append, feedAll_append_of_consumed hopen, ← hconfig]
    exact feedAll_reading_end (hconfig ▸ hlegal) hphase hdst

end Sys2Proof.Machine

/-! PROOFS. The feed statements (40_feed.md): each `FEED` row, what a row can change, an encoded frame, streams whose
dispatches are finished, the edges without reset, and the schedules of a byte source. -/

namespace Sys2Proof.Machine

/-! ### One row (40_feed.md R103 to R116) -/

/-- Settles O15: the three rows of noise answer the state they are given. -/
theorem noiseInSearchingIsDiscarded : Obligations.NoiseInSearchingIsDiscarded :=
  fun _ _ hp hd hb =>
    ⟨execFeedSearchingData_next.mpr ⟨⟨⟨hp, hd⟩, hb⟩, rfl⟩, execFeedSearchingEnd_next.mpr ⟨⟨hp, hd⟩, rfl⟩,
      execFeedSearchingEsc_next.mpr ⟨⟨hp, hd⟩, rfl⟩⟩

/-- Settles O16: the row clears the buffer and enters `READING`. -/
theorem startMarkerInSearchingBeginsAFrame : Obligations.StartMarkerInSearchingBeginsAFrame :=
  fun _ hp hd => execFeedSearchingStart_next.mpr ⟨⟨hp, hd⟩, rfl⟩

/-- Settles O17: the row is `Append` of its byte, with room and without. -/
theorem dataByteInReadingIsAppended : Obligations.DataByteInReadingIsAppended := by
  intro s b hp hd hb
  have hexec : exec (.feedReadingData b) s = .next (append b s) :=
    execFeedReadingData_next.mpr ⟨⟨⟨hp, hd⟩, hb⟩, rfl⟩
  refine ⟨fun hroom => ?_, fun hfull => ?_⟩
  · rw [hexec, append_of_room hroom]
  · rw [hexec, append_of_full hfull]

/-- Settles O18: the row sets `DST` alone. -/
theorem escapeMarkerInReadingMakesNextByteLiteral : Obligations.EscapeMarkerInReadingMakesNextByteLiteral :=
  fun _ hp hd => execFeedReadingEsc_next.mpr ⟨⟨hp, hd⟩, rfl⟩

/-- Settles O19: the row records `DROP_TRUNC` and clears the buffer. -/
theorem startMarkerInReadingRestartsTheFrame : Obligations.StartMarkerInReadingRestartsTheFrame :=
  fun _ hp hd => execFeedReadingStart_next.mpr ⟨⟨hp, hd⟩, rfl⟩

theorem appendEscaped_of_room {s : State} (hroom : s.blen < s.config.bufCap) (b : Byte) :
    appendEscaped b s = { s with
      dst := .reading, buf := s.buf.setIfInBounds s.blen (unescape s.config b), blen := s.blen + 1 } := by
  rw [appendEscaped, append_of_room hroom]
  rfl

theorem appendEscaped_of_full {s : State} (hfull : ¬ s.blen < s.config.bufCap) (b : Byte) :
    appendEscaped b s = { s with dst := .reading, ovf := true } := by
  rw [appendEscaped, append_of_full hfull]
  rfl

/-- Settles O20: each of the four rows appends `UNESC` of its own byte. -/
theorem escapedByteIsAppendedUnescaped : Obligations.EscapedByteIsAppendedUnescaped := by
  intro s b v i hp hd hrow
  obtain ⟨x, hexec, rfl⟩ : ∃ x, exec i s = .next (appendEscaped x s) ∧ unescape s.config x = v := by
    obtain ⟨rfl, hb, rfl⟩ | ⟨rfl, rfl⟩ | ⟨rfl, rfl⟩ | ⟨rfl, rfl⟩ := hrow
    · exact ⟨b, execFeedReadingEscapedData_next.mpr ⟨⟨⟨hp, hd⟩, hb⟩, rfl⟩, rfl⟩
    · exact ⟨_, execFeedReadingEscapedEnd_next.mpr ⟨⟨hp, hd⟩, rfl⟩, rfl⟩
    · exact ⟨_, execFeedReadingEscapedEsc_next.mpr ⟨⟨hp, hd⟩, rfl⟩, rfl⟩
    · exact ⟨_, execFeedReadingEscapedStart_next.mpr ⟨⟨hp, hd⟩, rfl⟩, rfl⟩
  refine ⟨fun hroom => ?_, fun hfull => ?_⟩
  · rw [hexec, appendEscaped_of_room hroom]
  · rw [hexec, appendEscaped_of_full hfull]

/-- Settles O21: the row is frame completion, whose four outcomes stand in the order of R140. -/
theorem completedFrameIsDispatchedOrDropped : Obligations.CompletedFrameIsDispatchedOrDropped := by
  intro s hp hd
  have hexec : exec .feedReadingEnd s = .next (frameCompletion s) := execFeedReadingEnd_next.mpr ⟨⟨hp, hd⟩, rfl⟩
  refine ⟨fun hovf => ?_, fun hovf hlen => ?_, fun hovf hlen hv => ?_, fun hovf hlen hv => ?_⟩
  · rw [hexec, frameCompletion_of_overflow hovf, dropFrame_eq]
  · rw [hexec, frameCompletion_of_empty hovf hlen, dropFrame_eq]
  · rw [hexec, frameCompletion_of_unknown hovf hlen hv, dropFrame_eq]
  · rw [hexec, frameCompletion_of_registered hovf hlen hv, dispatchEnter_eq]
    rfl

theorem not_accepts_of_closed {s : State} (h : s.dst = .done ∨ s.phase ≠ .run) : ¬ s.Accepts := by
  rintro ⟨hp, hd⟩
  exact h.elim hd (absurd hp)

/-- A byte offered while the port is closed changes nothing (40_feed.md R115, R116). -/
theorem feedByte_of_closed {s : State} (h : s.dst = .done ∨ s.phase ≠ .run) (b : Byte) : feedByte b s = .next s := by
  rw [feedByte, decodeRx_of_closed _ (x := selectCtx s) h]
  exact execFeedNotAccepted_next.mpr ⟨h, rfl⟩

/-- Settles O22: a closed port selects the row that answers the state it is given. -/
theorem offeredByteIsNotAcceptedWhenThePortIsClosed : Obligations.OfferedByteIsNotAcceptedWhenThePortIsClosed := by
  intro s b hclosed
  refine ⟨?_, congrArg Except.ok (decodeRx_of_closed s.config (x := selectCtx s) hclosed b),
    execFeedNotAccepted_next.mpr ⟨hclosed, rfl⟩⟩
  rw [← Bool.not_eq_true, rxReady_eq_true_iff]
  exact fun h => not_accepts_of_closed hclosed h.2

theorem decodeRx_ne_feedNotAccepted {s : State} (h : s.Accepts) (b : Byte) :
    decodeRx s.config (selectCtx s) b ≠ .feedNotAccepted b := by
  obtain ⟨hp, hd⟩ := h
  rw [decodeRx_of_run _ (x := selectCtx s) hp]
  show runRow s.dst b _ ≠ _
  cases hdst : s.dst with
  | done => exact absurd hdst hd
  | _ => cases classOf s.config b <;> exact nofun

/-- Settles O24: the pair of `DST` and class selects a row of an accepting state, and every selected row is a step. -/
theorem acceptedByteRunsExactlyOneFeedRow : Obligations.AcceptedByteRunsExactlyOneFeedRow := by
  intro s b hp hd
  obtain ⟨t, ht⟩ := exec_decodeRx_next s b
  exact ⟨_, t, rfl, decodeRx_format s.config (selectCtx s) b, decodeRx_ne_feedNotAccepted ⟨hp, hd⟩ b, ht⟩

/-! ### What a `FEED` row can do (40_feed.md R100) -/

/-- The changes of state that the `FEED` rows make, each with the row or the decoder state it comes from. -/
inductive FeedEffect (i : Instr) (s : State) : State → Prop
  | unchanged : FeedEffect i s s
  | frameBegun : FeedEffect i s ((clearBuf s).withDst .reading)
  | frameRestarted : FeedEffect i s (clearBuf (ghost .dropTrunc s))
  | byteAppended (b : Byte) : i = .feedReadingData b → FeedEffect i s (append b s)
  | escapeBegun : FeedEffect i s (s.withDst .readingEscaped)
  | escapedAppended (b : Byte) : s.dst = .readingEscaped → FeedEffect i s (appendEscaped b s)
  | frameCompleted : i = .feedReadingEnd → s.dst = .reading → FeedEffect i s (frameCompletion s)

theorem exec_feedEffect {i : Instr} {s t : State} (hi : i.format = .rx) (h : exec i s = .next t) : FeedEffect i s t := by
  cases i with
  | feedSearchingData b => exact (execFeedSearchingData_next.mp h).2 ▸ .unchanged
  | feedSearchingEnd => exact (execFeedSearchingEnd_next.mp h).2 ▸ .unchanged
  | feedSearchingEsc => exact (execFeedSearchingEsc_next.mp h).2 ▸ .unchanged
  | feedSearchingStart => exact (execFeedSearchingStart_next.mp h).2 ▸ .frameBegun
  | feedReadingData b => exact (execFeedReadingData_next.mp h).2 ▸ .byteAppended b rfl
  | feedReadingEsc => exact (execFeedReadingEsc_next.mp h).2 ▸ .escapeBegun
  | feedReadingStart => exact (execFeedReadingStart_next.mp h).2 ▸ .frameRestarted
  | feedReadingEnd =>
    obtain ⟨⟨-, hd⟩, rfl⟩ := execFeedReadingEnd_next.mp h
    exact .frameCompleted rfl hd
  | feedReadingEscapedData b =>
    obtain ⟨⟨⟨-, hd⟩, -⟩, rfl⟩ := execFeedReadingEscapedData_next.mp h
    exact .escapedAppended b hd
  | feedReadingEscapedEnd =>
    obtain ⟨⟨-, hd⟩, rfl⟩ := execFeedReadingEscapedEnd_next.mp h
    exact .escapedAppended _ hd
  | feedReadingEscapedEsc =>
    obtain ⟨⟨-, hd⟩, rfl⟩ := execFeedReadingEscapedEsc_next.mp h
    exact .escapedAppended _ hd
  | feedReadingEscapedStart =>
    obtain ⟨⟨-, hd⟩, rfl⟩ := execFeedReadingEscapedStart_next.mp h
    exact .escapedAppended _ hd
  | feedNotAccepted b => exact (execFeedNotAccepted_next.mp h).2 ▸ .unchanged
  | reg _ _ _ | lock _ | cfgRsv _ _ | dack | moveExec | reset | readOut => nomatch hi

/-- Frame completion changes `DST`, `BLEN`, `OVF` and the ghost traces alone. -/
theorem frameCompletion_frame (s : State) :
    ∃ dst blen ovf trace outcomes, frameCompletion s =
      { s with dst := dst, blen := blen, ovf := ovf, trace := trace, outcomes := outcomes } := by
  obtain ⟨k, -, hdrop⟩ | ⟨-, -, -, henter⟩ := frameCompletion_cases s
  · exact ⟨_, _, _, s.trace, _, hdrop⟩
  · exact ⟨_, s.blen, s.ovf, _, _, henter⟩

/-- The one cell that `Append` changes is the one behind the decoded frame, and only with room (40_feed.md R101). -/
theorem append_buf_ne {s : State} {v : Byte} {n : Nat} (h : n < 256) (hne : (append v s).buf[n] ≠ s.buf[n]) :
    n = s.blen ∧ s.blen < s.config.bufCap ∧ (append v s).blen = s.blen + 1 := by
  by_cases hroom : s.blen < s.config.bufCap
  · refine ⟨by_contra fun hn => hne ?_, hroom, by simp [hroom]⟩
    simp [hroom, Ne.symm hn]
  · simp [hroom] at hne

/-- Settles O23: of the changes a `FEED` row makes, the two that append write a cell, and none touches the rest. -/
theorem feedLeavesPhaseTableAndOutputsAlone : Obligations.FeedLeavesPhaseTableAndOutputsAlone := by
  intro i s t hi h
  cases exec_feedEffect hi h with
  | byteAppended b hrow =>
    refine ⟨rfl, rfl, rfl, rfl, rfl, rfl, rfl, rfl, fun n hn hne => ?_⟩
    obtain ⟨hcell, hroom, hlen⟩ := append_buf_ne hn hne
    exact ⟨hcell, hroom, hlen, .inr ⟨b, hrow⟩⟩
  | escapedAppended b hd =>
    refine ⟨rfl, rfl, rfl, rfl, rfl, rfl, rfl, rfl, fun n hn hne => ?_⟩
    obtain ⟨hcell, hroom, hlen⟩ := append_buf_ne (v := unescape s.config b) hn hne
    exact ⟨hcell, hroom, hlen, .inl hd⟩
  | frameCompleted =>
    obtain ⟨_, _, _, _, _, hframe⟩ := frameCompletion_frame s
    rw [hframe]
    exact ⟨rfl, rfl, rfl, rfl, rfl, rfl, rfl, rfl, fun _ _ hne => absurd rfl hne⟩
  | _ => exact ⟨rfl, rfl, rfl, rfl, rfl, rfl, rfl, rfl, fun _ _ hne => absurd rfl hne⟩

/-! ### Which operation records a code (60_exceptions.md R201) -/

theorem register_outcomes (t : Byte) (h : HandlerId) (s : State) :
    (register t h s).outcomes = s.outcomes ∨ (register t h s).outcomes = s.outcomes ++ [.dupReg] := by
  cases hv : (entryAt s t).v
  · rw [register_of_fresh hv]
    exact .inl rfl
  · rw [register_of_duplicate hv]
    exact .inr rfl

@[simp] theorem moveWrite_outcomes (s : State) : (moveWrite s).outcomes = s.outcomes := by
  obtain ⟨x, y, hwrite⟩ := moveWrite_cases s
  rw [hwrite]

/-- An operation that is not the END of `READING` records no code, a cut frame or a duplicate registration. -/
theorem exec_outcomes {i : Instr} {s t : State} (h : exec i s = .next t) :
    (i = .feedReadingEnd ∧ s.dst = .reading) ∨ t.outcomes = s.outcomes ∨
      ∃ k, (k = .dropTrunc ∨ k = .dupReg) ∧ t.outcomes = s.outcomes ++ [k] := by
  cases i with
  | reg rsv tag hid =>
    rw [← execReg_next.mp h]
    split
    case isTrue =>
      obtain hkept | hdup := register_outcomes tag hid s
      · exact .inr (.inl hkept)
      · exact .inr (.inr ⟨_, .inr rfl, hdup⟩)
    case isFalse => exact .inr (.inl rfl)
  | lock ign =>
    rw [← execLock_next.mp h]
    split <;> exact .inr (.inl rfl)
  | cfgRsv op0 ign => exact execCfgRsv_next.mp h ▸ .inr (.inl rfl)
  | dack => exact (execDack_next.mp h).2 ▸ .inr (.inl rfl)
  | moveExec => exact (execMoveExec_next.mp h).2 ▸ .inr (.inl (moveWrite_outcomes s))
  | reset => exact execReset_next.mp h ▸ .inr (.inl rfl)
  | readOut => exact execReadOut_next.mp h ▸ .inr (.inl rfl)
  | _ =>
    cases exec_feedEffect rfl h with
    | frameRestarted => exact .inr (.inr ⟨_, .inl rfl, rfl⟩)
    | frameCompleted hi hd => exact .inl ⟨hi, hd⟩
    | _ => exact .inr (.inl rfl)

/-- Settles O56: every other recorded code is another one, and after ESC the END marker is a literal byte. -/
theorem onlyUnescapedEndCompletesAFrame : Obligations.OnlyUnescapedEndCompletesAFrame := by
  refine ⟨fun i s t k h hk hcode => ?_, fun s hlegal hp hd => ?_⟩
  · obtain hend | hkept | ⟨k', hk', hother⟩ := exec_outcomes h
    · exact hend
    · simp [hkept] at hk
    · obtain rfl : k' = k := by simpa [hk] using hother.symm
      obtain rfl | rfl := hk' <;> simp at hcode
  · have hitem := feedAll_itemBytes (it := .escaped s.config.pEnd) hlegal hp hd rfl
    rw [itemBytes] at hitem
    rw [hitem, itemValue, ← hd]
    rfl

/-! ### An encoded frame (40_feed.md R118) -/

/-- The item that the reference encoder writes for a byte of the decoded frame. -/
def encodeItem (c : Config) (escEnc : Byte → Byte) (x : Byte) : WireItem :=
  if c.IsMarker x then .escaped (escEnc x) else .plain x

theorem itemBytes_encodeItem (c : Config) (escEnc : Byte → Byte) (x : Byte) :
    itemBytes c (encodeItem c escEnc x) = encodeByte c escEnc x := by
  unfold encodeItem encodeByte
  split_ifs <;> rfl

/-- The encoder's output is a frame of the grammar of R75. -/
theorem encodeOpen_eq (c : Config) (escEnc : Byte → Byte) (d : List Byte) :
    encodeOpen c escEnc d = c.pStart :: itemsBytes c (d.map (encodeItem c escEnc)) := by
  simp [encodeOpen, itemsBytes, List.flatMap_map, itemBytes_encodeItem]

theorem encodeFrame_eq (c : Config) (escEnc : Byte → Byte) (d : List Byte) :
    encodeFrame c escEnc d = wireFrame c (d.map (encodeItem c escEnc)) := by
  rw [encodeFrame, encodeOpen_eq, wireFrame, List.cons_append]

theorem itemLegal_encodeItem (c : Config) (escEnc : Byte → Byte) (x : Byte) :
    itemLegal c (encodeItem c escEnc x) = true := by
  unfold encodeItem
  split_ifs with hx
  · rfl
  · exact decide_eq_true hx

theorem itemLegal_of_mem_encode (c : Config) (escEnc : Byte → Byte) (d : List Byte) :
    ∀ it ∈ d.map (encodeItem c escEnc), itemLegal c it = true :=
  List.forall_mem_map.mpr fun x _ => itemLegal_encodeItem c escEnc x

theorem itemValue_encodeItem {c : Config} {escEnc : Byte → Byte} {x : Byte}
    (h : c.IsMarker x → unescape c (escEnc x) = x) : itemValue c (encodeItem c escEnc x) = x := by
  unfold encodeItem
  split_ifs with hx
  · exact h hx
  · rfl

theorem map_itemValue_encodeItem {c : Config} {escEnc : Byte → Byte} {d : List Byte}
    (h : ∀ x ∈ d, c.IsMarker x → unescape c (escEnc x) = x) :
    (d.map (encodeItem c escEnc)).map (itemValue c) = d := by
  rw [List.map_map]
  exact (List.map_congr_left fun x hx => itemValue_encodeItem (h x hx)).trans (List.map_id d)

@[simp] theorem appendAll_config (vs : List Byte) (s : State) : (appendAll vs s).config = s.config := by
  obtain ⟨_, _, _, h⟩ := appendAll_frame vs s
  rw [h]

@[simp] theorem appendAll_phase (vs : List Byte) (s : State) : (appendAll vs s).phase = s.phase := by
  obtain ⟨_, _, _, h⟩ := appendAll_frame vs s
  rw [h]

@[simp] theorem appendAll_dst (vs : List Byte) (s : State) : (appendAll vs s).dst = s.dst := by
  obtain ⟨_, _, _, h⟩ := appendAll_frame vs s
  rw [h]

@[simp] theorem appendAll_trace (vs : List Byte) (s : State) : (appendAll vs s).trace = s.trace := by
  obtain ⟨_, _, _, h⟩ := appendAll_frame vs s
  rw [h]

@[simp] theorem appendAll_outcomes (vs : List Byte) (s : State) : (appendAll vs s).outcomes = s.outcomes := by
  obtain ⟨_, _, _, h⟩ := appendAll_frame vs s
  rw [h]

@[simp] theorem entryAt_appendAll (vs : List Byte) (s : State) (t : Byte) :
    entryAt (appendAll vs s) t = entryAt s t := by
  obtain ⟨_, _, _, h⟩ := appendAll_frame vs s
  rw [h]
  rfl

@[simp] theorem beginFrame_config (s : State) : (beginFrame s).config = s.config := rfl

@[simp] theorem beginFrame_phase (s : State) : (beginFrame s).phase = s.phase := rfl

@[simp] theorem beginFrame_dst (s : State) : (beginFrame s).dst = .reading := rfl

@[simp] theorem beginFrame_trace (s : State) : (beginFrame s).trace = s.trace := rfl

@[simp] theorem beginFrame_outcomes (s : State) :
    (beginFrame s).outcomes = s.outcomes ++ if s.dst = .reading then [.dropTrunc] else [] := rfl

@[simp] theorem entryAt_beginFrame (s : State) (t : Byte) : entryAt (beginFrame s) t = entryAt s t := rfl

/-- An END marker behind bytes that append to a frame completes it. -/
theorem feedAll_append_end {bs vs : List Byte} {s u : State} (hfeed : feedAll bs s = consumed (appendAll vs u))
    (hlegal : u.config.Legal) (hp : u.phase = .run) (hd : u.dst = .reading) :
    feedAll (bs ++ [u.config.pEnd]) s = consumed (frameCompletion (appendAll vs u)) := by
  have hend := feedAll_reading_end (s := appendAll vs u) (by simpa using hlegal) (by simpa using hp) (by simpa using hd)
  rw [feedAll_append_of_consumed hfeed, ← hend, appendAll_config]

/-- A frame on the wire begins a frame, appends the values of its items and completes it. -/
theorem feedAll_wireFrame {s : State} {items : List WireItem} (hlegal : s.config.Legal) (hp : s.phase = .run)
    (hd : s.dst = .searching ∨ s.dst = .reading) (hitems : ∀ it ∈ items, itemLegal s.config it = true) :
    feedAll (wireFrame s.config items) s =
      consumed (frameCompletion (appendAll (items.map (itemValue s.config)) (beginFrame s))) :=
  feedAll_append_end (u := beginFrame s) (feedAll_start_itemsBytes hlegal hp hd hitems) hlegal hp rfl

/-- `ENCODE(d)` less its last byte begins a frame and appends `d`. -/
theorem feedAll_encodeOpen {s : State} {escEnc : Byte → Byte} {d : List Byte} (hlegal : s.config.Legal)
    (hp : s.phase = .run) (hd : s.dst = .searching ∨ s.dst = .reading)
    (hesc : ∀ x ∈ d, s.config.IsMarker x → unescape s.config (escEnc x) = x) :
    feedAll (encodeOpen s.config escEnc d) s = consumed (appendAll d (beginFrame s)) := by
  rw [encodeOpen_eq, feedAll_start_itemsBytes hlegal hp hd (itemLegal_of_mem_encode s.config escEnc d),
    map_itemValue_encodeItem hesc]

/-- `ENCODE(d)` completes the frame that consists of `d`. -/
theorem feedAll_encodeFrame {s : State} {escEnc : Byte → Byte} {d : List Byte} (hlegal : s.config.Legal)
    (hp : s.phase = .run) (hd : s.dst = .searching ∨ s.dst = .reading)
    (hesc : ∀ x ∈ d, s.config.IsMarker x → unescape s.config (escEnc x) = x) :
    feedAll (encodeFrame s.config escEnc d) s = consumed (frameCompletion (appendAll d (beginFrame s))) := by
  rw [encodeFrame_eq, feedAll_wireFrame hlegal hp hd (itemLegal_of_mem_encode s.config escEnc d),
    map_itemValue_encodeItem hesc]

/-- A frame that fits is decoded as it is. -/
theorem decodedFrame_appendAll_beginFrame {s : State} {d : List Byte} (hlegal : s.config.Legal)
    (hlen : d.length ≤ s.config.bufCap) : decodedFrame (appendAll d (beginFrame s)) = d := by
  have hbound : (beginFrame s).LengthBounded := Nat.zero_le _
  rw [decodedFrame_appendAll (s := beginFrame s) hlegal hbound]
  exact List.take_of_length_le hlen

theorem appendAll_beginFrame_ovf {s : State} {d : List Byte} (hlen : d.length ≤ s.config.bufCap) :
    (appendAll d (beginFrame s)).ovf = false := by
  have hbound : (beginFrame s).LengthBounded := Nat.zero_le _
  rw [← Bool.not_eq_true, appendAll_ovf hbound]
  simp [beginFrame, hlen]

/-- Completion of a decoded frame `tag :: payload` that did not overflow (41_dispatch.md R140). -/
theorem frameCompletion_of_decodedFrame {u : State} {tag : Byte} {payload : List Byte} (hovf : u.ovf = false)
    (hframe : decodedFrame u = tag :: payload) :
    frameCompletion u =
      if (entryAt u tag).v then
        { u with
          dst := .done, trace := u.trace ++ [{ tag := tag, hid := (entryAt u tag).hid, payload := payload }]
          outcomes := u.outcomes ++ [.dispatched] }
      else dropFrame .dropUnknownTag u := by
  have hlen : u.blen ≠ 0 := fun h => by simp [decodedFrame, h] at hframe
  obtain ⟨rfl, rfl⟩ : frameTag u = tag ∧ framePayload u = payload := by
    rwa [decodedFrame_eq_tag_cons (Nat.one_le_iff_ne_zero.mpr hlen), List.cons.injEq] at hframe
  split_ifs with hv
  · rw [frameCompletion_of_registered hovf hlen hv, dispatchEnter_eq, frameEvent]
  · exact frameCompletion_of_unknown hovf hlen (by simpa using hv)

/-- Settles O52: the encoder's items decode to `d`, so the final marker completes exactly `d`. -/
theorem encodedFrameRoundTrips : Obligations.EncodedFrameRoundTrips := by
  intro s escEnc tag payload hlegal hp hd hlen hesc
  have hframe := decodedFrame_appendAll_beginFrame hlegal hlen
  have hovf := appendAll_beginFrame_ovf hlen
  refine ⟨⟨_, feedAll_encodeOpen hlegal hp hd hesc, by simp, hframe, hovf, by simp, by simp⟩,
    _, feedAll_encodeFrame hlegal hp hd hesc, ?_⟩
  rw [frameCompletion_of_decodedFrame hovf hframe, entryAt_appendAll, entryAt_beginFrame]
  constructor <;> intro hv <;> simp [hv, dropFrame_eq]

/-! ### A stream whose dispatches are finished (40_feed.md R119) -/

section

variable {P : State → Prop} (hstep : ∀ i, i ≠ .reset → ∀ u v, P u → exec i u = .next v → P v)

include hstep

theorem finishDispatch_keeps {s t : State} (hs : P s) (h : finishDispatch s = .next t) : P t := by
  by_cases hd : s.InDispatch
  · by_cases ha : AddressedToMove s
    · rw [finishDispatch_of_move hd ha] at h
      exact hstep .moveExec nofun s t hs h
    · rw [finishDispatch_of_external hd ha] at h
      exact hstep .dack nofun s t hs h
  · rw [finishDispatch_of_none hd] at h
    cases h
    exact hs

theorem feedByte_keeps {b : Byte} {s t : State} (hs : P s) (h : feedByte b s = .next t) : P t := by
  have hrow := decodeRx_format s.config (selectCtx s) b
  refine hstep _ (fun hreset => ?_) s t hs h
  rw [hreset] at hrow
  cases hrow

/-- What every operation but `RESET` keeps holds after a stream. -/
theorem deliverAll_keeps {g : List Byte} {s t : State} (hs : P s) (h : deliverAll g s = consumed t) : P t := by
  induction g generalizing s with
  | nil =>
    obtain ⟨u, hu, ht⟩ := andThen_eq_next_iff.mp h
    obtain rfl := consumed_inj.mp ht
    exact finishDispatch_keeps hstep hs hu
  | cons b g ih =>
    obtain ⟨u, hu, hr⟩ := andThen_eq_next_iff.mp h
    split at hr
    · obtain ⟨v, hv, ht⟩ := andThen_eq_next_iff.mp hr
      exact ih (feedByte_keeps hstep (finishDispatch_keeps hstep hs hu) hv) ht
    · simp at hr

end

/-- No operation but `RESET` leaves `RUN` (60_exceptions.md R207). -/
theorem exec_phase_of_run {i : Instr} (hi : i ≠ .reset) (s t : State) (hp : s.phase = .run) (h : exec i s = .next t) :
    t.phase = .run :=
  (exec_dtab_phase_of_locked h hi (by simp [hp])).2.trans hp

theorem feedByte_next {s : State} (hp : s.phase = .run) (b : Byte) : ∃ t, feedByte b s = .next t ∧ t.phase = .run := by
  obtain ⟨t, ht⟩ := exec_decodeRx_next s b
  exact ⟨t, ht, feedByte_keeps (P := fun u => u.phase = .run) (fun _ hi => exec_phase_of_run hi) hp ht⟩

/-- Settles O57: once its dispatch is finished a `RUN` state accepts, and no byte leaves `RUN`. -/
theorem acknowledgedStreamIsAlwaysConsumed : Obligations.AcknowledgedStreamIsAlwaysConsumed := by
  intro s g hp
  induction g generalizing s with
  | nil =>
    obtain ⟨t, ht, hn, hphase⟩ := finishDispatch_next s
    exact ⟨t, by rw [deliverAll_nil, ht]; rfl, hphase.trans hp, fun hd => hn ⟨hphase.trans hp, hd⟩⟩
  | cons b g ih =>
    obtain ⟨t, ht, hn, hphase⟩ := finishDispatch_next s
    have haccepts : t.Accepts := ⟨hphase.trans hp, fun hd => hn ⟨hphase.trans hp, hd⟩⟩
    obtain ⟨u, hu, hup⟩ := feedByte_next haccepts.1 b
    rw [deliverAll_of_finished ht, deliverAll_cons_of_accepts haccepts, hu]
    exact ih u hup

/-- Without a START marker `SEARCHING` discards every byte (40_feed.md R103 to R105). -/
theorem feedAll_noise {s : State} (hp : s.phase = .run) (hd : s.dst = .searching) {g : List Byte}
    (hg : s.config.pStart ∉ g) : feedAll g s = consumed s := by
  induction g with
  | nil => rfl
  | cons b g ih =>
    obtain ⟨hb, hrest⟩ := not_or.mp (mt List.mem_cons.mpr hg)
    rw [feedAll_cons_of_accepts ⟨hp, by simp [hd]⟩, feedByte_searching_noise hp hd (Ne.symm hb), andThen_next, ih hrest]

/-- The end of a dispatch leaves `SEARCHING` and the trace as it was. -/
theorem finishDispatch_of_dispatch {s : State} (h : s.InDispatch) :
    ∃ t, finishDispatch s = .next t ∧ t.dst = .searching ∧ t.trace = s.trace := by
  by_cases ha : AddressedToMove s
  · obtain ⟨x, y, hwrite⟩ := moveWrite_cases s
    refine ⟨_, (finishDispatch_of_move h ha).trans (execMoveExec_next.mpr ⟨⟨h, ha⟩, rfl⟩), rfl, ?_⟩
    rw [hwrite]
    rfl
  · exact ⟨_, (finishDispatch_of_external h ha).trans (execDack_next.mpr ⟨⟨h, ha⟩, rfl⟩), rfl, rfl⟩

/-- A frame that fits, of a registered tag, starts its one dispatch. -/
theorem feedAll_encodeFrame_of_registered {s : State} {escEnc : Byte → Byte} {tag : Byte} {payload : List Byte}
    (hlegal : s.config.Legal) (hp : s.phase = .run) (hd : s.dst = .searching ∨ s.dst = .reading)
    (hlen : (tag :: payload).length ≤ s.config.bufCap)
    (hesc : ∀ x ∈ tag :: payload, s.config.IsMarker x → unescape s.config (escEnc x) = x)
    (hv : (entryAt s tag).v = true) :
    ∃ t, feedAll (encodeFrame s.config escEnc (tag :: payload)) s = consumed t ∧ t.InDispatch ∧
      t.trace = s.trace ++ [{ tag := tag, hid := (entryAt s tag).hid, payload := payload }] := by
  refine ⟨_, feedAll_encodeFrame hlegal hp hd hesc, ?_⟩
  rw [frameCompletion_of_decodedFrame (appendAll_beginFrame_ovf hlen) (decodedFrame_appendAll_beginFrame hlegal hlen),
    entryAt_appendAll, entryAt_beginFrame, if_pos hv]
  exact ⟨⟨by simpa using hp, rfl⟩, by simp⟩

/-- Settles O53: the noise leaves the state as it is, and the frame behind it is dispatched and its handler finishes. -/
theorem garbageWithoutStartIsDiscarded : Obligations.GarbageWithoutStartIsDiscarded := by
  intro s g hp hd hg
  have hnoise := feedAll_noise hp hd hg
  refine ⟨hnoise, ?_, fun escEnc tag payload hlegal hlen hesc hv => ?_⟩
  · rw [deliverAll_of_feedAll hnoise, finishDispatch_of_none (by simp [hd]), andThen_next]
  · obtain ⟨t, hframe, hdispatch, htrace⟩ := feedAll_encodeFrame_of_registered hlegal hp (.inl hd) hlen hesc hv
    obtain ⟨u, hu, hdst, hkept⟩ := finishDispatch_of_dispatch hdispatch
    refine ⟨u, ?_, hdst, hkept.trans htrace⟩
    rw [deliverAll_of_feedAll ((feedAll_append_of_consumed hnoise _).trans hframe), hu, andThen_next]

/-- An event of frame completion is the whole decoded frame. -/
theorem frameCompletion_trace (s : State) :
    (frameCompletion s).trace = s.trace ∨
      (s.ovf = false ∧ ∃ ev, (frameCompletion s).trace = s.trace ++ [ev] ∧ ev.tag :: ev.payload = decodedFrame s) := by
  obtain ⟨k, -, hdrop⟩ | ⟨hovf, hlen, -, henter⟩ := frameCompletion_cases s
  · rw [hdrop]
    exact .inl rfl
  · rw [henter]
    exact .inr ⟨hovf, _, rfl, (decodedFrame_eq_tag_cons (Nat.one_le_iff_ne_zero.mpr hlen)).symm⟩

/-- Without overflow no appended byte is lost, so an event holds every one of them. -/
theorem frameCompletion_appendAll_trace {s : State} (hlegal : s.config.Legal) (hbound : s.LengthBounded) (vs : List Byte) :
    (frameCompletion (appendAll vs s)).trace = s.trace ∨
      ∃ ev, (frameCompletion (appendAll vs s)).trace = s.trace ++ [ev] ∧
        ev.tag :: ev.payload = decodedFrame s ++ vs := by
  obtain hkept | ⟨hovf, ev, hev, hbytes⟩ := frameCompletion_trace (appendAll vs s)
  · exact .inl (hkept.trans (appendAll_trace vs s))
  · have hfits : ¬ (s.ovf = true ∨ s.config.bufCap < s.blen + vs.length) := by
      rw [← appendAll_ovf hbound vs, hovf]
      exact Bool.false_ne_true
    have hlen : (decodedFrame s).length = s.blen := decodedFrame_length (hbound.trans hlegal.2.1.2)
    refine .inr ⟨ev, appendAll_trace vs s ▸ hev, ?_⟩
    rw [hbytes, decodedFrame_appendAll hlegal hbound]
    exact List.take_of_length_le (by rw [List.length_append]; omega)

/-- Settles O54: the first frame's bytes leave `READING` with the trace as it was, and the second START empties the
buffer, so the event has the second frame's bytes. -/
theorem twoStartMarkersKeepOnlyTheSecondFrame : Obligations.TwoStartMarkersKeepOnlyTheSecondFrame := by
  intro s items items' hlegal hp hd hitems hitems'
  have hfirst := feedAll_start_itemsBytes hlegal hp hd hitems
  generalize hu : appendAll (items.map (itemValue s.config)) (beginFrame s) = u at hfirst
  have hconfig : u.config = s.config := by simp [← hu]
  have htrace : u.trace = s.trace := by simp [← hu]
  rw [feedAll_append_of_consumed hfirst]
  rw [← hconfig] at hlegal hitems' ⊢
  refine ⟨_, feedAll_wireFrame hlegal (by simpa [← hu] using hp) (.inr (by simp [← hu])) hitems', ?_⟩
  rw [← htrace]
  exact frameCompletion_appendAll_trace (s := beginFrame u) hlegal (Nat.zero_le _) _

/-- The encoded bytes of `d` after a pending escape: the START marker is a literal byte and `d` joins the frame in progress
(40_feed.md R114). -/
theorem feedAll_encodeOpen_of_escaped {s : State} {escEnc : Byte → Byte} {d : List Byte} (hlegal : s.config.Legal)
    (hp : s.phase = .run) (hd : s.dst = .readingEscaped)
    (hesc : ∀ x ∈ d, s.config.IsMarker x → unescape s.config (escEnc x) = x) :
    feedAll (encodeOpen s.config escEnc d) s =
      consumed (appendAll (unescape s.config s.config.pStart :: d) (s.withDst .reading)) := by
  have hitems := feedAll_itemsBytes (s := appendEscaped s.config.pStart s) hlegal hp rfl
    (itemLegal_of_mem_encode s.config escEnc d)
  rw [encodeOpen_eq, feedAll_cons_of_accepts ⟨hp, by simp [hd]⟩, feedByte_escaped hp hd, andThen_next]
  rwa [appendEscaped_config, map_itemValue_encodeItem hesc] at hitems

/-- Settles O60: the stream before the frame is consumed and keeps the invariant; the frame behind it then starts afresh, or
joins the frame in progress. -/
theorem frameAfterAPrefixIsDispatchedUnlessAnEscapeIsPending :
    Obligations.FrameAfterAPrefixIsDispatchedUnlessAnEscapeIsPending := by
  intro s g escEnc tag payload hinv hp hlen hesc
  obtain ⟨u, hu, hup, hdone⟩ := acknowledgedStreamIsAlwaysConsumed s g hp
  obtain ⟨⟨hlegal, hbound, -⟩, hconfig⟩ : u.Inv ∧ u.config = s.config :=
    deliverAll_keeps (P := fun v => v.Inv ∧ v.config = s.config)
      (fun _ _ _ _ hv h => ⟨(exec_effect h).keeps_inv hv.1, (exec_config h).trans hv.2⟩) ⟨hinv, rfl⟩ hu
  rw [← hconfig] at hlen hesc ⊢
  refine ⟨u, hu, fun hunescaped => ?_, fun hescaped => ?_⟩
  · have hd : u.dst = .searching ∨ u.dst = .reading := by cases hd : u.dst <;> simp_all
    have hframe := decodedFrame_appendAll_beginFrame hlegal hlen
    refine ⟨_, _, feedAll_encodeOpen hlegal hup hd hesc, hframe, by simp, by simp,
      feedAll_encodeFrame hlegal hup hd hesc, ?_⟩
    rw [frameCompletion_of_decodedFrame (appendAll_beginFrame_ovf hlen) hframe, entryAt_appendAll, entryAt_beginFrame]
    split_ifs <;> simp [dropFrame_eq]
  · have hopen := feedAll_encodeOpen_of_escaped hlegal hup hescaped hesc
    exact ⟨_, _, hopen, by simp, decodedFrame_appendAll (s := u.withDst .reading) hlegal hbound _, by simp, by simp,
      feedAll_append_end (u := u.withDst .reading) hopen hlegal hup rfl,
      frameCompletion_appendAll_trace (s := u.withDst .reading) hlegal hbound _⟩

/-! ### One edge without reset -/

/-- The state in which the operations of an edge run after the reader's sample: the edge taken, the sample recorded. -/
def afterSample (e : Edge) (s : State) : State :=
  { s with
    edges := s.edges.tail, draws := s.draws + 1
    samples := s.samples ++ (if e.sample then [statusSample s] else []) }

/-- The operations of an edge are decoded in the state before it, from which `afterSample` does not differ in what selects them. -/
theorem step_of_run {s : State} {e : Edge} (hlegal : s.config.Legal) (he : nextEdge s = e) (hrst : e.rst = false) :
    step s = execAll (rxOps (afterSample e s) e.rx ++ (handlerOps (afterSample e s) e.dspReady ++ cfgOps e.cfg)) (afterSample e s) := by
  have hsample : execAll (if e.sample then [.readOut] else []) (takeEdge s) = .next (afterSample e s) := by
    cases hs : e.sample
    · simp [afterSample, hs, takeEdge]
    · simp only [afterSample, hs]
      rfl
  rw [step_of_legal hlegal, he, edgeOps_of_run s hrst, execAll_append, hsample]
  rfl

theorem execAll_rxOps_some (s : State) (b : Byte) : execAll (rxOps s (some b)) s = feedByte b s :=
  execAll_singleton _ s

theorem execAll_rxOps_of_dispatch {s : State} (h : s.InDispatch) (o : Option Byte) :
    execAll (rxOps s o) s = .next s := by
  cases o with
  | none => rfl
  | some b => rw [execAll_rxOps_some, feedByte_of_closed (.inl h.2)]

theorem execAll_rxOps_next (s : State) (o : Option Byte) : ∃ t, execAll (rxOps s o) s = .next t := by
  cases o with
  | none => exact ⟨s, rfl⟩
  | some b =>
    rw [execAll_rxOps_some]
    exact exec_decodeRx_next s b

/-- The built-in handler finishes its dispatch at the edge, an external one with `dsp_ready` (41_dispatch.md R143,
42_move_handler.md R180). -/
theorem execAll_handlerOps_of_dispatch {s : State} (h : s.InDispatch) (ready : Bool) :
    execAll (handlerOps s ready) s = if AddressedToMove s ∨ ready = true then finishDispatch s else .next s := by
  by_cases ha : AddressedToMove s
  · rw [handlerOps_of_move h ha, if_pos (.inl ha), finishDispatch_of_move h ha, execAll_singleton]
  · rw [handlerOps_of_external h ha, finishDispatch_of_external h ha]
    cases ready
    · rw [if_neg (by simp), if_neg (by simpa using ha), execAll_nil]
    · rw [if_pos rfl, if_pos (.inr rfl), execAll_singleton]

/-- A configuration word is a step in every state (41_dispatch.md R147, R148, R150). -/
theorem execAll_cfgOps_next (o : Option CfgWord) (s : State) : ∃ t, execAll (cfgOps o) s = .next t := by
  cases o with
  | none => exact ⟨s, rfl⟩
  | some w =>
    rw [cfgOps, execAll_singleton]
    unfold decodeCfg
    split_ifs <;> exact ⟨_, rfl⟩

theorem execAll_cfgOps_of_run {s : State} (hp : s.phase = .run) (o : Option CfgWord) :
    execAll (cfgOps o) s = .next s := by
  cases o with
  | none => rfl
  | some w => rw [cfgOps, execAll_singleton, exec_cfg_of_locked (decodeCfg_format w) (by simp [hp])]

/-- Settles O11: with `rst` the edge runs the sample and `RESET`; without it the offered byte is a step, and it changes
nothing in the dispatch that a handler may finish. -/
theorem stepAlwaysAnswersNext : Obligations.StepAlwaysAnswersNext := by
  intro s hlegal
  cases hrst : (nextEdge s).rst with
  | true =>
    rw [step_of_legal hlegal, edgeOps_of_reset s hrst]
    cases (nextEdge s).sample <;> exact ⟨_, rfl⟩
  | false =>
    rw [step_of_run hlegal rfl hrst]
    generalize afterSample (nextEdge s) s = u
    rw [execAll_append]
    by_cases hd : u.InDispatch
    · rw [execAll_rxOps_of_dispatch hd, andThen_next, execAll_append, execAll_handlerOps_of_dispatch hd]
      split_ifs
      · obtain ⟨t, ht, -⟩ := finishDispatch_next u
        rw [ht, andThen_next]
        exact execAll_cfgOps_next _ t
      · exact execAll_cfgOps_next _ u
    · obtain ⟨t, ht⟩ := execAll_rxOps_next u (nextEdge s).rx
      rw [ht, andThen_next, handlerOps_of_none hd, List.nil_append]
      exact execAll_cfgOps_next _ t

/-- Settles O13: the offered byte is not accepted, the handler does not answer, and in `RUN` the configuration word has no
effect. -/
theorem unacknowledgedDispatchWaits : Obligations.UnacknowledgedDispatchWaits := by
  intro s e hlegal he hrst hready hd ha
  have hwait : (afterSample e s).InDispatch := hd
  have hexternal : ¬ AddressedToMove (afterSample e s) := ha
  rw [step_of_run hlegal he hrst, execAll_append, execAll_rxOps_of_dispatch hwait, andThen_next,
    handlerOps_of_external hwait hexternal, hready, if_neg Bool.false_ne_true, List.nil_append,
    execAll_cfgOps_of_run hwait.1]
  rfl

/-! ### Gaps and waits (40_feed.md R122) -/

theorem stepWhere_draws {p : Prop} [Decidable p] {t u : State} (h : stepWhere p t = .next u) (n : Nat) :
    stepWhere p { t with draws := n } = .next { u with draws := n } := by
  obtain ⟨hp, rfl⟩ := stepWhere_eq_next_iff.mp h
  exact stepWhere_of_true hp _

theorem frameCompletion_draws (s : State) (n : Nat) :
    frameCompletion { s with draws := n } = { frameCompletion s with draws := n } := by
  by_cases hovf : s.ovf = true
  · rw [frameCompletion_of_overflow hovf, frameCompletion_of_overflow (s := { s with draws := n }) hovf]
    rfl
  have hovf : s.ovf = false := by simpa using hovf
  by_cases hlen : s.blen = 0
  · rw [frameCompletion_of_empty hovf hlen, frameCompletion_of_empty (s := { s with draws := n }) hovf hlen]
    rfl
  cases hv : (entryAt s (frameTag s)).v
  · rw [frameCompletion_of_unknown hovf hlen hv, frameCompletion_of_unknown (s := { s with draws := n }) hovf hlen hv]
    rfl
  · rw [frameCompletion_of_registered hovf hlen hv,
      frameCompletion_of_registered (s := { s with draws := n }) hovf hlen hv]
    rfl

/-- A `FEED` row does not depend on the draw counter. -/
theorem exec_feed_draws {i : Instr} {s t : State} (hi : i.format = .rx) (h : exec i s = .next t) (n : Nat) :
    exec i { s with draws := n } = .next { t with draws := n } := by
  cases i with
  | reg _ _ _ | lock _ | cfgRsv _ _ | dack | moveExec | reset | readOut => nomatch hi
  | feedReadingEnd =>
    obtain ⟨hrow, rfl⟩ := execFeedReadingEnd_next.mp h
    exact execFeedReadingEnd_next.mpr ⟨hrow, (frameCompletion_draws s n).symm⟩
  | _ => exact stepWhere_draws h n

theorem feedByte_draws {b : Byte} {s t : State} (h : feedByte b s = .next t) (n : Nat) :
    feedByte b { s with draws := n } = .next { t with draws := n } :=
  exec_feed_draws (decodeRx_format s.config (selectCtx s) b) h n

/-- What the slot's edge runs: its byte, and the end of the dispatch. -/
theorem step_slot {s : State} (hlegal : s.config.Legal) (k : Slot) (bs : List Byte) :
    step (presentEdge (slotEdge k bs) s) =
      execAll (rxOps { s with draws := s.draws + 1 } (slotEdge k bs).rx ++
        handlerOps { s with draws := s.draws + 1 } k.dspReady) { s with draws := s.draws + 1 } :=
  step_of_plain (s := presentEdge (slotEdge k bs) s) hlegal rfl rfl rfl rfl

/-- In a dispatch the offered byte waits, and the handler finishes at the slot's edge or not. -/
theorem step_slot_of_dispatch {s : State} (hlegal : s.config.Legal) (hd : s.InDispatch) (k : Slot) (bs : List Byte) :
    heldAfter k bs s = bs ∧ step (presentEdge (slotEdge k bs) s) =
      if AddressedToMove s ∨ k.dspReady = true then finishDispatch { s with draws := s.draws + 1 }
      else .next { s with draws := s.draws + 1 } := by
  refine ⟨if_neg fun h => not_accepts_of_closed (.inl hd.2) h.2, ?_⟩
  have hd' : ({ s with draws := s.draws + 1 } : State).InDispatch := hd
  rw [step_slot hlegal, execAll_append, execAll_rxOps_of_dispatch hd', andThen_next, execAll_handlerOps_of_dispatch hd']
  rfl

/-- Outside a dispatch the slot's edge feeds the byte that is offered. -/
theorem step_slot_of_accepts {s : State} (hlegal : s.config.Legal) (ha : s.Accepts) (k : Slot) (bs : List Byte) :
    (∃ b rest, bs = b :: rest ∧ heldAfter k bs s = rest ∧
      step (presentEdge (slotEdge k bs) s) = feedByte b { s with draws := s.draws + 1 }) ∨
    ((k.offers = false ∨ bs = []) ∧ heldAfter k bs s = bs ∧
      step (presentEdge (slotEdge k bs) s) = .next { s with draws := s.draws + 1 }) := by
  have hn : ¬ ({ s with draws := s.draws + 1 } : State).InDispatch := fun hd => ha.2 hd.2
  rw [step_slot hlegal, handlerOps_of_none hn, List.append_nil]
  cases hk : k.offers with
  | false => exact .inr ⟨.inl rfl, if_neg (by simp [hk]), by simp [slotEdge, hk, rxOps]⟩
  | true =>
    cases bs with
    | nil => exact .inr ⟨.inr rfl, by simp [heldAfter], by simp [slotEdge, rxOps, Edge.idle]⟩
    | cons b rest =>
      refine .inl ⟨b, rest, rfl, if_pos ⟨hk, ha⟩, ?_⟩
      rw [← execAll_rxOps_some]
      simp [slotEdge, hk]

/-- A slot keeps the parameters and `RUN`. -/
theorem step_slot_keeps {s t : State} {k : Slot} {bs : List Byte} (hp : s.phase = .run)
    (h : step (presentEdge (slotEdge k bs) s) = .next t) : t.config = s.config ∧ t.phase = .run :=
  ⟨parametersNeverChange (presentEdge (slotEdge k bs) s) t h,
    (dispatchTableIsFrozenOutsideConfig (presentEdge (slotEdge k bs) s) t (by simp [presentEdge, hp]) rfl h).2.trans hp⟩

/-- A slot is a part of the delivery of the bytes that the source holds, whatever the draw counter is. -/
theorem deliverAll_slot {s t : State} {k : Slot} {bs : List Byte} (hlegal : s.config.Legal) (hp : s.phase = .run)
    (h : step (presentEdge (slotEdge k bs) s) = .next t) (n : Nat) :
    deliverAll bs { s with draws := n } = deliverAll (heldAfter k bs s) { t with draws := n } := by
  by_cases hd : s.InDispatch
  · obtain ⟨hheld, hstep⟩ := step_slot_of_dispatch hlegal hd k bs
    rw [hheld]
    rw [hstep] at h
    split_ifs at h
    · exact deliverAll_of_finished (finishDispatch_draws h n) bs
    · cases h
      rfl
  · have ha : s.Accepts := ⟨hp, fun hdone => hd ⟨hp, hdone⟩⟩
    obtain ⟨b, rest, rfl, hheld, hstep⟩ | ⟨-, hheld, hstep⟩ := step_slot_of_accepts hlegal ha k bs
    · have hfeed := feedByte_draws (hstep.symm.trans h) n
      rw [hheld, deliverAll_cons_of_accepts (s := { s with draws := n }) ha, hfeed, andThen_next]
    · rw [hheld]
      rw [hstep] at h
      cases h
      rfl

/-- A schedule that consumes the bytes and ends outside a dispatch ends where their delivery does. -/
theorem deliverAll_of_runSlots {ks : List Slot} {bs : List Byte} {s t : State} (hlegal : s.config.Legal)
    (hp : s.phase = .run) (h : runSlots ks bs s = consumed t) (hend : ¬ t.InDispatch) (n : Nat) :
    deliverAll bs { s with draws := n } = consumed { t with draws := n } := by
  induction ks generalizing bs s with
  | nil =>
    obtain ⟨rfl, rfl⟩ : s = t ∧ bs = [] := by simpa [consumed] using h
    rw [deliverAll_nil, finishDispatch_of_none (s := { s with draws := n }) hend, andThen_next]
  | cons k ks ih =>
    obtain ⟨u, hu, hrest⟩ := andThen_eq_next_iff.mp h
    obtain ⟨hconfig, hup⟩ := step_slot_keeps hp hu
    rw [deliverAll_slot hlegal hp hu]
    exact ih (hconfig ▸ hlegal) hup hrest

/-- The slot of a schedule without gaps and without waits. -/
abbrev gaplessSlot : Slot := { offers := true, dspReady := true }

/-- A gapless slot finishes the dispatch in progress or feeds the next byte. -/
theorem gaplessSlot_progress {s : State} {bs : List Byte} {m : Nat} (hlegal : s.config.Legal) (hp : s.phase = .run)
    (hm : 2 * bs.length + (if s.InDispatch then 1 else 0) ≤ m + 1) :
    ∃ t, step (presentEdge (slotEdge gaplessSlot bs) s) = .next t ∧
      2 * (heldAfter gaplessSlot bs s).length + (if t.InDispatch then 1 else 0) ≤ m := by
  by_cases hd : s.InDispatch
  · obtain ⟨hheld, hstep⟩ := step_slot_of_dispatch hlegal hd gaplessSlot bs
    obtain ⟨t, ht, hn, -⟩ := finishDispatch_next { s with draws := s.draws + 1 }
    rw [if_pos hd] at hm
    refine ⟨t, by rw [hstep, if_pos (.inr rfl), ht], ?_⟩
    rw [hheld, if_neg hn]
    omega
  · have ha : s.Accepts := ⟨hp, fun hdone => hd ⟨hp, hdone⟩⟩
    obtain ⟨b, rest, rfl, hheld, hstep⟩ | ⟨hnone, hheld, hstep⟩ := step_slot_of_accepts hlegal ha gaplessSlot bs
    · obtain ⟨t, ht, -⟩ := feedByte_next (s := { s with draws := s.draws + 1 }) hp b
      refine ⟨t, hstep.trans ht, ?_⟩
      rw [List.length_cons] at hm
      rw [hheld]
      split_ifs <;> omega
    · obtain rfl : bs = [] := by simpa using hnone
      refine ⟨_, hstep, ?_⟩
      rw [hheld, if_neg hd]
      exact Nat.zero_le m

/-- One gapless slot for a dispatch in progress and two for each byte are enough. -/
theorem runSlots_gapless {s : State} {bs : List Byte} {m : Nat} (hlegal : s.config.Legal) (hp : s.phase = .run)
    (hm : 2 * bs.length + (if s.InDispatch then 1 else 0) ≤ m) :
    ∃ t, runSlots (List.replicate m gaplessSlot) bs s = consumed t ∧ ¬ t.InDispatch := by
  induction m generalizing bs s with
  | zero =>
    have hd : ¬ s.InDispatch := fun hd => by
      rw [if_pos hd] at hm
      omega
    obtain rfl : bs = [] := List.length_eq_zero_iff.mp (by omega)
    exact ⟨s, rfl, hd⟩
  | succ m ih =>
    obtain ⟨t, ht, hleft⟩ := gaplessSlot_progress hlegal hp hm
    obtain ⟨hconfig, htp⟩ := step_slot_keeps hp ht
    rw [List.replicate_succ, runSlots_cons, ht, andThen_next]
    exact ih (hconfig ▸ hlegal) htp hleft

/-- Settles O58: each schedule is the delivery of its bytes, which has one result, and the gapless schedule ends. -/
theorem streamIsIndependentOfGaps : Obligations.StreamIsIndependentOfGaps := by
  intro s bs hlegal hp
  refine ⟨fun ks ks' t t' h hend h' hend' => ?_, runSlots_gapless hlegal hp (by split_ifs <;> omega)⟩
  have hdeliver := deliverAll_of_runSlots hlegal hp h hend
  have heq : { t' with draws := t.draws } = t :=
    consumed_inj.mp ((deliverAll_of_runSlots hlegal hp h' hend' t.draws).symm.trans (hdeliver t.draws))
  exact ⟨heq, (congrArg State.trace heq :), hdeliver s.draws⟩

end Sys2Proof.Machine

/-! PROOFS. The dispatch statements (41_dispatch.md): the configuration words, the order of registrations, the end of an
external dispatch, the count of dispatches, and the block while a dispatch is in progress. -/

namespace Sys2Proof.Machine

/-! ### The configuration words (41_dispatch.md R147, R148, R150) -/

theorem exec_reg_of_config {s : State} (hp : s.phase = .config) (rsv : BitVec 2) (t : Byte) (h : HandlerId) :
    exec (.reg rsv t h) s = .next (register t h s) := execReg_next.mpr (if_pos hp)

theorem exec_lock_of_config {s : State} (hp : s.phase = .config) (ign : BitVec 14) :
    exec (.lock ign) s = .next (lockPhase s) := execLock_next.mpr (if_pos hp)

/-- Settles O26: in `CONFIG` the row is `register`, by the valid bit of its entry; elsewhere it is a configuration word
without effect. -/
theorem registrationWritesOneEntryOnce : Obligations.RegistrationWritesOneEntryOnce := by
  intro s rsv t h
  refine ⟨fun hp hfresh => ?_, fun hp hdup => ?_, exec_cfg_of_locked rfl⟩
  · rw [exec_reg_of_config hp, register_of_fresh hfresh, setEntry]
  · rw [exec_reg_of_config hp, register_of_duplicate hdup]

/-- Settles O27: in `CONFIG` the row is `lockPhase`, which reads `CFG_ERR`; elsewhere it is a configuration word without
effect. -/
theorem lockEndsTheConfigurationPhase : Obligations.LockEndsTheConfigurationPhase := by
  intro s ign
  refine ⟨fun hp herr => ?_, fun hp herr => ?_, exec_cfg_of_locked rfl⟩
  · rw [exec_lock_of_config hp, lockPhase, if_pos herr]
  · rw [exec_lock_of_config hp, lockPhase, if_neg (by simp [herr])]

/-- Settles O28: the row answers the state it is given. -/
theorem reservedConfigurationWordHasNoEffect : Obligations.ReservedConfigurationWordHasNoEffect :=
  fun _ _ _ => execCfgRsv_next.mpr rfl

/-! ### One registration -/

@[simp] theorem register_phase (t : Byte) (h : HandlerId) (s : State) : (register t h s).phase = s.phase := by
  cases hv : (entryAt s t).v
  · rw [register_of_fresh hv, setEntry_phase]
  · rw [register_of_duplicate hv]

/-- `CFG_ERR` after a registration: it is kept, and a duplicate sets it. -/
theorem register_cfgErr_iff (t : Byte) (h : HandlerId) (s : State) :
    (register t h s).cfgErr = true ↔ s.cfgErr = true ∨ (entryAt s t).v = true := by
  cases hv : (entryAt s t).v
  · simp [register_of_fresh hv]
  · simp [register_of_duplicate hv]

theorem entryAt_register_of_fresh {s : State} {t : Byte} (hfresh : (entryAt s t).v = false) (h : HandlerId) :
    entryAt (register t h s) t = { v := true, hid := h } := by
  rw [register_of_fresh hfresh, entryAt_setEntry_self]

theorem entryAt_register_other {t u : Byte} (hne : t ≠ u) (h : HandlerId) (s : State) :
    entryAt (register t h s) u = entryAt s u := by
  cases hv : (entryAt s t).v
  · rw [register_of_fresh hv, entryAt_setEntry_other s _ hne]
  · rw [register_of_duplicate hv]
    rfl

/-- A registered entry is kept, by a duplicate of its own tag too. -/
theorem entryAt_register_of_valid {s : State} {u : Byte} (hvalid : (entryAt s u).v = true) (t : Byte) (h : HandlerId) :
    entryAt (register t h s) u = entryAt s u := by
  by_cases hne : t = u
  · rw [hne, register_of_duplicate hvalid]
    rfl
  · exact entryAt_register_other hne h s

theorem entryAt_register_v_iff (t u : Byte) (h : HandlerId) (s : State) :
    (entryAt (register t h s) u).v = true ↔ (entryAt s u).v = true ∨ u = t := by
  by_cases hvalid : (entryAt s u).v = true
  · simp [entryAt_register_of_valid hvalid t h, hvalid]
  by_cases hne : u = t
  · subst hne
    simp [entryAt_register_of_fresh (by simpa using hvalid) h]
  · simp [entryAt_register_other (Ne.symm hne) h s, hne]

theorem setEntry_comm {t u : Byte} (hne : t ≠ u) (d e : DispatchEntry) (s : State) :
    setEntry u e (setEntry t d s) = setEntry t d (setEntry u e s) := by
  have hindex : t.toNat ≠ u.toNat := fun h => hne (BitVec.eq_of_toNat_eq h)
  simp only [setEntry, Vector.set_comm _ _ hindex]

/-- Registrations of two tags commute in every state, whether fresh or duplicate. -/
theorem register_comm {t u : Byte} (hne : t ≠ u) (h k : HandlerId) (s : State) :
    register u k (register t h s) = register t h (register u k s) := by
  have hu := congrArg DispatchEntry.v (entryAt_register_other hne h s)
  have ht := congrArg DispatchEntry.v (entryAt_register_other hne.symm k s)
  cases hvt : (entryAt s t).v <;> cases hvu : (entryAt s u).v
  · rw [register_of_fresh (hu.trans hvu), register_of_fresh (ht.trans hvt), register_of_fresh hvt, register_of_fresh hvu,
      setEntry_comm hne]
  · rw [register_of_duplicate (hu.trans hvu), register_of_fresh (ht.trans hvt), register_of_fresh hvt,
      register_of_duplicate hvu]
    rfl
  · rw [register_of_fresh (hu.trans hvu), register_of_duplicate (ht.trans hvt), register_of_duplicate hvt,
      register_of_fresh hvu]
    rfl
  · rw [register_of_duplicate (hu.trans hvu), register_of_duplicate (ht.trans hvt), register_of_duplicate hvt,
      register_of_duplicate hvu]

/-! ### A list of registrations (41_dispatch.md R149) -/

/-- The state after the registrations of a list, in its order. -/
def registerAll (l : List (Byte × HandlerId)) (s : State) : State := l.foldl (fun u p => register p.1 p.2 u) s

@[simp] theorem registerAll_nil (s : State) : registerAll [] s = s := rfl

@[simp] theorem registerAll_cons (p : Byte × HandlerId) (l : List (Byte × HandlerId)) (s : State) :
    registerAll (p :: l) s = registerAll l (register p.1 p.2 s) := rfl

/-- In `CONFIG`, `REG` words followed by `LOCK` are the registrations of the list and then the lock. -/
theorem execAll_reg_lock {s : State} (hp : s.phase = .config) (l : List (Byte × HandlerId)) (rsv : BitVec 2)
    (ign : BitVec 14) :
    execAll (l.map (fun p => .reg rsv p.1 p.2) ++ [.lock ign]) s = .next (lockPhase (registerAll l s)) := by
  induction l generalizing s with
  | nil => exact (execAll_singleton _ s).trans (exec_lock_of_config hp ign)
  | cons p l ih =>
    rw [List.map_cons, List.cons_append, execAll_cons, exec_reg_of_config hp, andThen_next]
    exact ih ((register_phase p.1 p.2 s).trans hp)

theorem registerAll_perm {l l' : List (Byte × HandlerId)} (hperm : l.Perm l') (hnodup : (l.map Prod.fst).Nodup)
    (s : State) : registerAll l s = registerAll l' s := by
  refine hperm.foldl_eq' (fun p hp q hq u => ?_) s
  by_cases hpq : p.1 = q.1
  · rw [List.inj_on_of_nodup_map hnodup hp hq hpq]
  · exact register_comm hpq p.2 q.2 u

theorem entryAt_registerAll_of_valid {s : State} {u : Byte} (hvalid : (entryAt s u).v = true)
    (l : List (Byte × HandlerId)) : entryAt (registerAll l s) u = entryAt s u := by
  induction l generalizing s with
  | nil => rfl
  | cons p l ih =>
    have hkept := entryAt_register_of_valid hvalid p.1 p.2
    exact (ih (hkept ▸ hvalid)).trans hkept

theorem entryAt_registerAll_v_iff (l : List (Byte × HandlerId)) (s : State) (u : Byte) :
    (entryAt (registerAll l s) u).v = true ↔ (entryAt s u).v = true ∨ u ∈ l.map Prod.fst := by
  induction l generalizing s with
  | nil => simp
  | cons p l ih => rw [registerAll_cons, ih, entryAt_register_v_iff, List.map_cons, List.mem_cons, or_assoc]

/-- A tag that is fresh before the list and stands in it once has the entry of its registration. -/
theorem entryAt_registerAll_of_mem {l : List (Byte × HandlerId)} {s : State} {p : Byte × HandlerId}
    (hnodup : (l.map Prod.fst).Nodup) (hmem : p ∈ l) (hfresh : (entryAt s p.1).v = false) :
    entryAt (registerAll l s) p.1 = { v := true, hid := p.2 } := by
  induction l generalizing s with
  | nil => exact absurd hmem List.not_mem_nil
  | cons q l ih =>
    obtain ⟨hq, hrest⟩ := List.nodup_cons.mp hnodup
    obtain rfl | hmem := List.mem_cons.mp hmem
    · have hentry := entryAt_register_of_fresh hfresh p.2
      exact (entryAt_registerAll_of_valid (congrArg DispatchEntry.v hentry) l).trans hentry
    · have hne : q.1 ≠ p.1 := fun h => hq (h ▸ List.mem_map_of_mem hmem)
      exact ih hrest hmem (entryAt_register_other hne q.2 s ▸ hfresh)

/-- `CFG_ERR` after a list of registrations: it is kept, and it is set by a tag that was registered before or stands in
the list twice. -/
theorem registerAll_cfgErr_iff (l : List (Byte × HandlerId)) (s : State) :
    (registerAll l s).cfgErr = true ↔
      s.cfgErr = true ∨ (∃ u ∈ l.map Prod.fst, (entryAt s u).v = true) ∨ ¬ (l.map Prod.fst).Nodup := by
  induction l generalizing s with
  | nil => simp
  | cons p l ih =>
    rw [registerAll_cons, ih, register_cfgErr_iff, List.map_cons, List.nodup_cons]
    simp only [entryAt_register_v_iff, List.mem_cons, exists_eq_or_imp, and_or_left, exists_or, exists_eq_right,
      not_and_or, not_not, or_assoc, or_left_comm]

@[simp] theorem entryAt_resetWith (c : Config) (t : Byte) :
    entryAt (State.resetWith c) t = { v := false, hid := 0#4 } := by
  simp [entryAt, State.resetWith, emptyTable]

@[simp] theorem entryAt_lockPhase (s : State) (t : Byte) : entryAt (lockPhase s) t = entryAt s t := rfl

/-- From reset, registrations set `CFG_ERR` exactly if a tag stands in the list twice (60_exceptions.md R209). -/
theorem registerAll_resetWith_cfgErr_iff (c : Config) (l : List (Byte × HandlerId)) :
    (registerAll l (State.resetWith c)).cfgErr = true ↔ ¬ (l.map Prod.fst).Nodup := by
  have herr : (State.resetWith c).cfgErr = false := rfl
  simp [registerAll_cfgErr_iff, herr]

/-- Settles O29: registrations of distinct tags commute, and whether `LOCK` finds `CFG_ERR` depends on the repetition of a
tag, which no order changes. -/
theorem registrationOrderIsIrrelevant : Obligations.RegistrationOrderIsIrrelevant := by
  intro c l l' hperm
  rw [execAll_reg_lock rfl, execAll_reg_lock rfl]
  refine ⟨fun hnodup => ?_, fun hrepeat => ?_⟩
  · have herr : ¬ (registerAll l (State.resetWith c)).cfgErr = true :=
      fun h => (registerAll_resetWith_cfgErr_iff c l).mp h hnodup
    refine ⟨_, rfl, by rw [registerAll_perm hperm hnodup], if_neg herr, fun p hp => ?_, fun u hu => ?_⟩
    · rw [entryAt_lockPhase, entryAt_registerAll_of_mem hnodup hp (by simp)]
    · rw [entryAt_lockPhase, ← Bool.not_eq_true, entryAt_registerAll_v_iff]
      simp [hu]
  · have hrepeat' : ¬ (l'.map Prod.fst).Nodup := mt (hperm.map Prod.fst).nodup_iff.mpr hrepeat
    have herr := (registerAll_resetWith_cfgErr_iff c l').mpr hrepeat'
    exact ⟨_, rfl, if_pos herr, herr⟩

/-! ### The end of an external dispatch (41_dispatch.md R143, R144) -/

theorem exec_dack_of_external {s : State} (hd : s.InDispatch) (ha : ¬ AddressedToMove s) :
    exec .dack s = .next (dispatchReturn s) := execDack_next.mpr ⟨⟨hd, ha⟩, rfl⟩

theorem exec_dack_of_not_external {s : State} (h : ¬ (s.InDispatch ∧ ¬ AddressedToMove s)) :
    exec .dack s = .refused .noSuchStep := stepWhere_of_false h _

/-- Settles O31: the row is dispatch return, under its guard. -/
theorem dackEndsAnExternalDispatch : Obligations.DackEndsAnExternalDispatch := by
  intro s
  refine ⟨fun ⟨hp, hd, ha⟩ => ?_, fun h => ?_⟩
  · rw [exec_dack_of_external ⟨hp, hd⟩ ha, dispatchReturn_eq]
  · exact exec_dack_of_not_external fun ⟨⟨hp, hd⟩, ha⟩ => h ⟨hp, hd, ha⟩

/-- Settles O9: outside an external dispatch `dsp_ready` adds no operation to the edge, and with `rst = 1` the edge's
operation is `RESET`. -/
theorem dspReadyHasNoEffectInThreeCases : Obligations.DspReadyHasNoEffectInThreeCases := by
  intro s rest hlegal
  have hplain (hedges : s.edges = edgeOfWord .dsp :: rest) :
      step s = execAll (handlerOps s true) { s with edges := rest, draws := s.draws + 1 } := by
    rw [step_of_plain hlegal (nextEdge_of_cons hedges) rfl rfl rfl, takeEdge_of_cons hedges]
    rfl
  refine ⟨fun hedges hd => ⟨?_, exec_dack_of_not_external fun h => hd h.1⟩,
    fun hedges hd ha => ⟨?_, exec_dack_of_not_external fun h => h.2 ha⟩, fun hedges => ?_⟩
  · rw [hplain hedges, handlerOps_of_none hd, execAll_nil]
  · rw [hplain hedges, handlerOps_of_move hd ha, execAll_singleton]
  · rw [step_of_legal hlegal, nextEdge_of_cons hedges, takeEdge_of_cons hedges, edgeOps_of_reset s rfl]
    exact execAll_singleton .reset _

/-! ### The count of dispatches (41_dispatch.md R146) -/

/-- As many dispatch events as codes `DISPATCHED`. -/
def DispatchesRecorded (s : State) : Prop := s.trace.length = s.outcomes.count .dispatched

/-- A record of another code leaves both counts as they are. -/
theorem dispatchesRecorded_of_other {s t : State} {k : OutcomeCode} (hs : DispatchesRecorded s) (hk : k ≠ .dispatched)
    (htrace : t.trace = s.trace) (hcode : t.outcomes = s.outcomes ++ [k]) : DispatchesRecorded t := by
  rw [DispatchesRecorded, htrace, hcode, hs, List.count_append, List.count_singleton, if_neg (by simpa using hk),
    Nat.add_zero]

/-- Dispatch entry adds an event and the code `DISPATCHED` (60_exceptions.md R205). -/
theorem dispatchEnter_keeps_dispatchesRecorded {s : State} (hs : DispatchesRecorded s) (h : HandlerId) :
    DispatchesRecorded (dispatchEnter h s) := by
  rw [DispatchesRecorded, dispatchEnter_eq, List.length_append, List.count_append, hs]
  rfl

theorem frameCompletion_keeps_dispatchesRecorded {s : State} (hs : DispatchesRecorded s) :
    DispatchesRecorded (frameCompletion s) := by
  obtain ⟨k, hk, hdrop⟩ | ⟨-, -, -, henter⟩ := frameCompletion_cases s
  · have hother : k ≠ .dispatched := by rintro rfl; simp at hk
    exact dispatchesRecorded_of_other hs hother (by rw [hdrop, dropFrame_eq]) (by rw [hdrop, dropFrame_eq])
  · exact henter ▸ dispatchEnter_keeps_dispatchesRecorded hs _

/-- Frame completion is the one operation that dispatches; no other one emits an event or records `DISPATCHED`. -/
theorem exec_keeps_dispatchesRecorded {i : Instr} {s t : State} (hs : DispatchesRecorded s) (h : exec i s = .next t) :
    DispatchesRecorded t := by
  by_cases hi : i = .feedReadingEnd
  · subst hi
    obtain ⟨-, rfl⟩ := execFeedReadingEnd_next.mp h
    exact frameCompletion_keeps_dispatchesRecorded hs
  · have htrace : t.trace = s.trace := (traceGrowsOnlyByFrameCompletion i s t h).resolve_right fun hend => hi hend.1
    obtain ⟨hend, -⟩ | hkept | ⟨k, hk, hcode⟩ := exec_outcomes h
    · exact absurd hend hi
    · rwa [DispatchesRecorded, htrace, hkept]
    · have hother : k ≠ .dispatched := by rintro rfl; simp at hk
      exact dispatchesRecorded_of_other hs hother htrace hcode

/-- Settles O48: both traces are empty at reset, and each operation of an edge keeps the counts equal. -/
theorem everyDispatchIsRecordedOnce : Obligations.EveryDispatchIsRecordedOnce := by
  refine ⟨fun _ => rfl, fun s t hs hstep => ?_⟩
  obtain ⟨-, hrun⟩ := step_eq_next_iff.mp hstep
  have htaken : DispatchesRecorded (takeEdge s) := hs
  exact execAll_keeps (P := DispatchesRecorded) (fun _ _ _ _ hu hexec => exec_keeps_dispatchesRecorded hu hexec) htaken hrun

/-! ### A dispatch in progress (41_dispatch.md R142, R145) -/

/-- A `FEED` row is a step in a state that accepts, or it is `FEED.NOT_ACCEPTED`, which changes nothing. -/
theorem exec_feed_cases {i : Instr} {s t : State} (hi : i.format = .rx) (h : exec i s = .next t) : s.Accepts ∨ t = s := by
  cases i with
  | feedNotAccepted b => exact .inr (execFeedNotAccepted_next.mp h).2
  | feedSearchingData b | feedReadingData b | feedReadingEscapedData b =>
    obtain ⟨⟨⟨hp, hd⟩, -⟩, -⟩ := stepWhere_eq_next_iff.mp h
    exact .inl ⟨hp, by simp [hd]⟩
  | reg _ _ _ | lock _ | cfgRsv _ _ | dack | moveExec | reset | readOut => nomatch hi
  | _ =>
    obtain ⟨⟨hp, hd⟩, -⟩ := stepWhere_eq_next_iff.mp h
    exact .inl ⟨hp, by simp [hd]⟩

/-- Settles O49: during a dispatch the port is closed to the byte source and a configuration word comes too late, so what
is left besides the handler and reset is the reader's sample. -/
theorem dispatchIsFrozenAndNeverNested : Obligations.DispatchIsFrozenAndNeverNested := by
  intro s hp hd
  have hclosed : ¬ s.Accepts := not_accepts_of_closed (.inl hd)
  refine ⟨Bool.eq_false_iff.mpr fun h => hclosed ((rxReady_eq_true_iff s false).mp h).2, ?_⟩
  intro i t h hdack hmove hreset
  cases i with
  | dack => exact absurd rfl hdack
  | moveExec => exact absurd rfl hmove
  | reset => exact absurd rfl hreset
  | readOut => exact execReadOut_next.mp h ▸ rfl
  | reg _ _ _ | lock _ | cfgRsv _ _ =>
    rw [exec_cfg_of_locked rfl (by simp [hp])] at h
    injection h with h
    rw [← h]
  | _ => rw [(exec_feed_cases rfl h).resolve_left hclosed]

end Sys2Proof.Machine

/-! PROOFS. The MOVE handler statements (42_move_handler.md): the write of the output pair, the edge at which a dispatch to
`HID_MOVE` ends, and the output reader's sample. -/

namespace Sys2Proof.Machine

/-! ### `MOVE_EXEC` (42_move_handler.md R180, R181) -/

/-- The payload is the decoded frame without its tag (30_encoding.md R76). -/
theorem framePayload_length {s : State} (h : s.blen ≤ 256) : (framePayload s).length = s.blen - 1 := by
  rw [framePayload, List.length_drop, decodedFrame_length h]

theorem exec_moveExec_of_move {s : State} (hd : s.InDispatch) (ha : AddressedToMove s) :
    exec .moveExec s = .next (dispatchReturn (moveWrite s)) := execMoveExec_next.mpr ⟨⟨hd, ha⟩, rfl⟩

@[simp] theorem moveWrite_phase (s : State) : (moveWrite s).phase = s.phase := by
  obtain ⟨x, y, hwrite⟩ := moveWrite_cases s
  rw [hwrite]

/-- Settles O32: the row is dispatch return after the MOVE write, which compares `2 * MOVE_FB` with the payload's length. -/
theorem moveExecWritesBothOutputsOrNeither : Obligations.MoveExecWritesBothOutputsOrNeither := by
  intro s hp hd hlen ha
  rw [exec_moveExec_of_move ⟨hp, hd⟩ ha, ← framePayload_length hlen]
  refine ⟨fun hlong => ?_, fun hshort => ?_⟩
  · rw [moveWrite_of_long hlong, dispatchReturn_eq]
    rfl
  · rw [moveWrite_of_short hshort, dispatchReturn_eq]

/-- Settles O8: the offered byte is not accepted, the handler's operation is `MOVE_EXEC` whatever `dsp_ready` is, and the
configuration word that comes after it finds the phase still `RUN`. -/
theorem moveExecRunsAtTheFirstEdge : Obligations.MoveExecRunsAtTheFirstEdge := by
  intro s e hlegal he hrst hp hd ha
  have hdispatch : (afterSample e s).InDispatch := ⟨hp, hd⟩
  have hmove : AddressedToMove (afterSample e s) := ha
  have hexec := exec_moveExec_of_move hdispatch hmove
  have hrun : (dispatchReturn (moveWrite (afterSample e s))).phase = .run := (moveWrite_phase _).trans hp
  calc step s
      = execAll (handlerOps (afterSample e s) e.dspReady ++ cfgOps e.cfg) (afterSample e s) := by
        rw [step_of_run hlegal he hrst, execAll_append, execAll_rxOps_of_dispatch hdispatch, andThen_next]
    _ = execAll (cfgOps e.cfg) (dispatchReturn (moveWrite (afterSample e s))) := by
        rw [handlerOps_of_move hdispatch hmove, List.singleton_append, execAll_cons, hexec, andThen_next]
    _ = exec .moveExec (afterSample e s) := by rw [execAll_cfgOps_of_run hrun, hexec]

/-! ### The output reader (42_move_handler.md R184) -/

theorem exec_readOut (s : State) : exec .readOut s = .next (recordSample s) := execReadOut_next.mpr rfl

theorem exec_reset (s : State) : exec .reset s = .next (resetBlock s) := execReset_next.mpr rfl

/-- At an edge with `rst = 1` the sample comes before the reset. -/
theorem step_of_sampled_reset {s : State} (hlegal : s.config.Legal) (hrst : (nextEdge s).rst = true)
    (hsample : (nextEdge s).sample = true) : step s = .next (resetBlock (recordSample (takeEdge s))) := by
  rw [step_of_legal hlegal, edgeOps_of_reset s hrst, if_pos hsample, List.singleton_append, execAll_cons, exec_readOut,
    andThen_next, execAll_singleton, exec_reset]

/-- Settles O36: the row is `recordSample`; at an edge with `rst = 1` it runs before `RESET`, which keeps the samples. -/
theorem readOutReturnsTheStatusOutputs : Obligations.ReadOutReturnsTheStatusOutputs := by
  refine fun s => ⟨exec_readOut s, fun rest hlegal hedges => ?_⟩
  have hedge := nextEdge_of_cons hedges
  refine ⟨_, step_of_sampled_reset hlegal (by rw [hedge]; rfl) (by rw [hedge]), resetBlock_phase _, resetBlock_xout _, ?_⟩
  rw [resetBlock_samples, recordSample_samples, takeEdge_of_cons hedges]
  rfl

end Sys2Proof.Machine

/-! PROOFS. The exception statements (60_exceptions.md): idle edges, the operations outside their phase, the changes of
`PHASE`, and the one operation of an edge that can have an effect. -/

namespace Sys2Proof.Machine

/-! ### Idle edges (60_exceptions.md R211, R215) -/

/-- Settles O14: an idle edge offers no byte, and without a dispatch no handler's operation is selected. -/
theorem idleEdgeChangesNothingOutsideADispatch : Obligations.IdleEdgeChangesNothingOutsideADispatch := by
  intro s hlegal hidle hd
  rw [step_of_plain hlegal hidle rfl rfl rfl, handlerOps_of_none hd]
  rfl

/-! ### Outside the phase of an operation (60_exceptions.md R208) -/

/-- The operations that exist in `RUN` alone: a `FEED` row of an accepting state, `DACK` and `MOVE_EXEC`. -/
def NeedsRun (i : Instr) : Prop := (i.format = .rx ∧ ∀ b, i ≠ .feedNotAccepted b) ∨ i = .dack ∨ i = .moveExec

theorem not_needsRun_feedNotAccepted (b : Byte) : ¬ NeedsRun (.feedNotAccepted b) := by simp [NeedsRun]

theorem not_needsRun_reset : ¬ NeedsRun .reset := by simp [NeedsRun, Instr.format]

theorem not_needsRun_readOut : ¬ NeedsRun .readOut := by simp [NeedsRun, Instr.format]

theorem not_needsRun_of_cfg {i : Instr} (hi : i.format = .cfg) : ¬ NeedsRun i := by
  rintro (⟨hrx, -⟩ | rfl | rfl)
  · simp [hi] at hrx
  · cases hi
  · cases hi

/-- The guard of each of these operations asks for `PHASE = RUN`. -/
theorem exec_of_needsRun {i : Instr} {s : State} (hi : NeedsRun i) (hp : s.phase ≠ .run) :
    exec i s = .refused .noSuchStep := by
  obtain ⟨hrx, hb⟩ | rfl | rfl := hi
  case inr.inl => exact stepWhere_of_false (fun ⟨⟨hrun, _⟩, _⟩ => hp hrun) _
  case inr.inr => exact stepWhere_of_false (fun ⟨⟨hrun, _⟩, _⟩ => hp hrun) _
  case inl =>
    cases i with
    | feedNotAccepted b => exact absurd rfl (hb b)
    | feedSearchingData b | feedReadingData b | feedReadingEscapedData b =>
      exact stepWhere_of_false (fun ⟨⟨hrun, _⟩, _⟩ => hp hrun) _
    | reg _ _ _ | lock _ | cfgRsv _ _ | dack | moveExec | reset | readOut => nomatch hrx
    | _ => exact stepWhere_of_false (fun ⟨hrun, _⟩ => hp hrun) _

theorem rxReady_of_not_run {s : State} (hp : s.phase ≠ .run) (rst : Bool) : rxReady s rst = false :=
  Bool.eq_false_iff.mpr fun h => hp ((rxReady_eq_true_iff s rst).mp h).2.1

/-- Settles O30: the operations of `RUN` are refused, and outside `RUN` the block searches (I4), so that no dispatch is
presented; outside `CONFIG` a configuration word comes too late. -/
theorem operationsOutsideTheirPhaseAreNoFault : Obligations.OperationsOutsideTheirPhaseAreNoFault := by
  refine fun s => ⟨fun hp => ⟨rxReady_of_not_run hp false, fun hinv => ?_, fun i hi => exec_of_needsRun hi hp⟩,
    fun hp i hi => exec_cfg_of_locked hi hp⟩
  obtain ⟨-, -, -, -, hclosed, -, -, -⟩ := hinv
  exact (dspValid_eq_false_iff s false).mpr fun h => by simp [hclosed hp] at h

/-! ### The changes of `PHASE` (60_exceptions.md R207) -/

/-- An operation keeps `PHASE`, or it is `RESET`, or `LOCK` at the end of the configuration phase. -/
theorem exec_phase {i : Instr} {s t : State} (h : exec i s = .next t) :
    t.phase = s.phase ∨ (i = .reset ∧ t.phase = .config) ∨
      (s.phase = .config ∧ (∃ ign, i = .lock ign) ∧ t.phase = if s.cfgErr then .halt else .run) := by
  cases i with
  | reset => exact execReset_next.mp h ▸ .inr (.inl ⟨rfl, rfl⟩)
  | lock ign =>
    rw [← execLock_next.mp h]
    split
    case isTrue hp => exact .inr (.inr ⟨hp, ⟨ign, rfl⟩, rfl⟩)
    case isFalse => exact .inl rfl
  | reg rsv tag hid =>
    rw [← execReg_next.mp h]
    split
    case isTrue => exact .inl (register_phase tag hid s)
    case isFalse => exact .inl rfl
  | cfgRsv op0 ign => exact execCfgRsv_next.mp h ▸ .inl rfl
  | dack => exact (execDack_next.mp h).2 ▸ .inl rfl
  | moveExec => exact (execMoveExec_next.mp h).2 ▸ .inl (moveWrite_phase s)
  | readOut => exact execReadOut_next.mp h ▸ .inl rfl
  | _ =>
    obtain ⟨hphase, -⟩ := feedLeavesPhaseTableAndOutputsAlone _ s t rfl h
    exact .inl hphase

/-- In `HALT` the operations of `RUN` are refused and a configuration word comes too late (60_exceptions.md R208), so what
is left besides reset is an offered byte, which is not accepted, and the reader's sample. -/
theorem exec_of_halt {i : Instr} {s t : State} (h : exec i s = .next t) (hp : s.phase = .halt) (hi : i ≠ .reset) :
    t = s ∨ t = recordSample s := by
  by_cases hneeds : NeedsRun i
  · rw [exec_of_needsRun hneeds (by simp [hp])] at h
    cases h
  cases i with
  | reset => exact absurd rfl hi
  | readOut => exact .inr (execReadOut_next.mp h).symm
  | feedNotAccepted b => exact .inl (execFeedNotAccepted_next.mp h).2
  | reg _ _ _ | lock _ | cfgRsv _ _ =>
    rw [exec_cfg_of_locked rfl (by simp [hp])] at h
    injection h with h
    exact .inl h.symm
  | dack => exact absurd (.inr (.inl rfl)) hneeds
  | moveExec => exact absurd (.inr (.inr rfl)) hneeds
  | _ => exact absurd (.inl ⟨rfl, nofun⟩) hneeds

/-- Settles O45: of the two operations that change `PHASE`, `RESET` enters `CONFIG` and `LOCK` the phase that `CFG_ERR`
selects. -/
theorem phasesAreEnteredOnlyAsStated : Obligations.PhasesAreEnteredOnlyAsStated := by
  refine ⟨fun i s t h hne => ?_, fun i s t h hp hi => ?_, fun s hp => rxReady_of_not_run (by simp [hp]) false,
    fun i s hi hp => exec_cfg_of_locked hi hp⟩
  · obtain hkept | ⟨hreset, ht⟩ | ⟨hp, hlock, ht⟩ := exec_phase h
    · exact absurd hkept hne
    · simp [ht, hreset]
    · cases herr : s.cfgErr <;> simp [ht, herr, hp, hlock]
  · obtain rfl | rfl := exec_of_halt h hp hi
    · rfl
    · rfl

/-! ### The one operation of an edge that can have an effect (60_exceptions.md R203) -/

/-- What can have an effect at an edge with `rst = 0`: in `CONFIG` the configuration word, in `RUN` the end of the dispatch
in progress or otherwise the offered byte, in `HALT` nothing. -/
def openOp (s : State) (e : Edge) : Option Instr :=
  match s.phase with
  | .config => e.cfg.map decodeCfg
  | .run =>
    if s.dst = .done then (handlerOps s e.dspReady).head?
    else e.rx.map (decodeRx s.config (selectCtx s))
  | .halt => none

theorem openOp_of_config {s : State} (hp : s.phase = .config) (e : Edge) : openOp s e = e.cfg.map decodeCfg := by
  simp [openOp, hp]

theorem openOp_of_dispatch {s : State} (hd : s.InDispatch) (e : Edge) :
    openOp s e = (handlerOps s e.dspReady).head? := by
  simp [openOp, hd.1, hd.2]

theorem openOp_of_accepts {s : State} (ha : s.Accepts) (e : Edge) :
    openOp s e = e.rx.map (decodeRx s.config (selectCtx s)) := by
  simp [openOp, ha.1, ha.2]

theorem eq_readOut_of_mem_sample {sample : Bool} {i : Instr} (h : i ∈ if sample then [.readOut] else []) :
    i = .readOut := by
  cases sample
  · cases h
  · exact List.mem_singleton.mp h

theorem mem_rxOps {s : State} {o : Option Byte} {i : Instr} :
    i ∈ rxOps s o ↔ ∃ b, o = some b ∧ decodeRx s.config (selectCtx s) b = i := by
  cases o <;> simp [rxOps, eq_comm]

theorem mem_cfgOps {o : Option CfgWord} {i : Instr} : i ∈ cfgOps o ↔ ∃ w, o = some w ∧ decodeCfg w = i := by
  cases o <;> simp [cfgOps, eq_comm]

/-- A handler's operation is selected in a dispatch alone, and as the only one (41_dispatch.md R143, 42_move_handler.md
R180). -/
theorem mem_handlerOps {s : State} {ready : Bool} {i : Instr} (h : i ∈ handlerOps s ready) :
    s.InDispatch ∧ (handlerOps s ready).head? = some i := by
  by_cases hd : s.InDispatch
  · refine ⟨hd, ?_⟩
    by_cases ha : AddressedToMove s
    · rw [handlerOps_of_move hd ha] at h ⊢
      exact congrArg some (List.mem_singleton.mp h).symm
    · rw [handlerOps_of_external hd ha] at h ⊢
      cases ready
      · cases h
      · exact congrArg some (List.mem_singleton.mp h).symm
  · rw [handlerOps_of_none hd] at h
    cases h

/-- A selected operation that is neither the sample nor the one of `openOp` is a byte that is not accepted or a
configuration word that comes too late. -/
theorem mem_edgeOps_of_run {s : State} {e : Edge} (hrst : e.rst = false) {i : Instr} (h : i ∈ edgeOps s e) :
    i = .readOut ∨ (¬ NeedsRun i ∧ exec i s = .next s) ∨ openOp s e = some i := by
  simp only [edgeOps_of_run s hrst, List.mem_append] at h
  obtain hsample | hrx | hhandler | hcfg := h
  · exact .inl (eq_readOut_of_mem_sample hsample)
  · obtain ⟨b, hb, rfl⟩ := mem_rxOps.mp hrx
    refine .inr ?_
    by_cases ha : s.Accepts
    · exact .inr (by rw [openOp_of_accepts ha, hb, Option.map_some])
    · have hclosed : s.dst = .done ∨ s.phase ≠ .run := by tauto
      rw [decodeRx_of_closed s.config (x := selectCtx s) hclosed]
      exact .inl ⟨not_needsRun_feedNotAccepted b, execFeedNotAccepted_next.mpr ⟨hclosed, rfl⟩⟩
  · obtain ⟨hd, hhead⟩ := mem_handlerOps hhandler
    exact .inr (.inr ((openOp_of_dispatch hd e).trans hhead))
  · obtain ⟨w, hw, rfl⟩ := mem_cfgOps.mp hcfg
    refine .inr ?_
    by_cases hp : s.phase = .config
    · exact .inr (by rw [openOp_of_config hp, hw, Option.map_some])
    · exact .inl ⟨not_needsRun_of_cfg (decodeCfg_format w), exec_cfg_of_locked (decodeCfg_format w) hp⟩

theorem openOp_of_needsRun {s : State} {e : Edge} (hrst : e.rst = false) {i : Instr} (h : i ∈ edgeOps s e)
    (hi : NeedsRun i) : openOp s e = some i := by
  obtain rfl | ⟨hno, -⟩ | hopen := mem_edgeOps_of_run hrst h
  · exact absurd hi not_needsRun_readOut
  · exact absurd hi hno
  · exact hopen

/-- Every operation that an edge selects in `CONFIG` is a sample, a reset, a byte that is not accepted or a configuration
word. -/
theorem not_needsRun_of_config {s : State} {e : Edge} (hp : s.phase = .config) {i : Instr} (h : i ∈ edgeOps s e) :
    ¬ NeedsRun i := by
  intro hi
  cases hrst : e.rst with
  | true =>
    rw [edgeOps_of_reset s hrst, List.mem_append, List.mem_singleton] at h
    obtain hsample | rfl := h
    · exact not_needsRun_readOut (eq_readOut_of_mem_sample hsample ▸ hi)
    · exact not_needsRun_reset hi
  | false =>
    have hopen := openOp_of_needsRun hrst h hi
    rw [openOp_of_config hp] at hopen
    obtain ⟨w, -, rfl⟩ := Option.map_eq_some_iff.mp hopen
    exact not_needsRun_of_cfg (decodeCfg_format w) hi

/-- Settles O10: of two selected operations that could both have an effect, or that both need `RUN`, each is the one of
`openOp`. -/
theorem everyEdgePerformsAtMostOneEffectiveOperation : Obligations.EveryEdgePerformsAtMostOneEffectiveOperation := by
  intro s e _
  refine ⟨edgeOps_of_reset s, fun hrst i hi j hj hne hisample hjsample => ?_, fun hrst i hi j hj hirun hjrun => ?_,
    fun hp i hi => not_needsRun_of_config hp hi, fun hp i _ hcfg => exec_cfg_of_locked hcfg (by simp [hp])⟩
  · obtain hi | ⟨-, hi⟩ | hi := mem_edgeOps_of_run hrst hi
    · exact absurd hi hisample
    · exact .inl hi
    obtain hj | ⟨-, hj⟩ | hj := mem_edgeOps_of_run hrst hj
    · exact absurd hj hjsample
    · exact .inr hj
    exact absurd (Option.some.inj (hi.symm.trans hj)) hne
  · exact Option.some.inj ((openOp_of_needsRun hrst hi hirun).symm.trans (openOp_of_needsRun hrst hj hjrun))

end Sys2Proof.Machine

/-! PROOFS. The reset and hazard statements (70_reset_and_hazards.md): the values after reset, the `RESET` operation, the guard
byte before a START marker, and the runs that are over or hang. -/

namespace Sys2Proof.Machine

/-! ### Reset (70_reset_and_hazards.md R230, R231, R233) -/

theorem emptyTable_getElem (n : Nat) (h : n < 256) : emptyTable[n] = { v := false, hid := 0#4 } :=
  Vector.getElem_replicate h

/-- Settles O34: each field is the one `State.resetWith` gives, and every entry of the table is the empty one. -/
theorem resetStateHoldsTheSpecifiedValues : Obligations.ResetStateHoldsTheSpecifiedValues :=
  ⟨rfl, fun _ => ⟨rfl, rfl, rfl, rfl, rfl, emptyTable_getElem, rfl, rfl, rfl, rfl⟩⟩

/-- Settles O35: the operation is `resetBlock`, and both handshakes ask for `rst = 0`. -/
theorem resetOperationDiscardsCurrentWork : Obligations.ResetOperationDiscardsCurrentWork := by
  refine fun s => ⟨?_, (dspValid_eq_false_iff s true).mpr (by simp), resetBlock s, exec_reset s, resetBlock_phase s,
    resetBlock_cfgErr s, resetBlock_dst s, resetBlock_blen s, resetBlock_ovf s, emptyTable_getElem, resetBlock_xout s,
    resetBlock_yout s, resetBlock_config s, resetBlock_trace s, resetBlock_outcomes s, resetBlock_edges s,
    resetBlock_samples s⟩
  rw [← Bool.not_eq_true, rxReady_eq_true_iff]
  simp

/-! ### The guard byte (70_reset_and_hazards.md R241) -/

/-- A DATA byte is discarded in `SEARCHING` and appended in the other accepting states, so no escape is pending after it. -/
theorem feedByte_data {s : State} {g : Byte} (ha : s.Accepts) (hg : ¬ s.config.IsMarker g) :
    ∃ u, feedByte g s = .next u ∧ u.config = s.config ∧ u.phase = .run ∧ (u.dst = .searching ∨ u.dst = .reading) ∧
      u.trace = s.trace := by
  obtain ⟨hp, hopen⟩ := ha
  cases hd : s.dst with
  | done => exact absurd hd hopen
  | searching => exact ⟨s, feedByte_searching_noise hp hd (fun h => hg (.inl h)), rfl, hp, .inl hd, rfl⟩
  | reading => exact ⟨append g s, feedByte_reading_data hp hd hg, rfl, hp, .inr hd, rfl⟩
  | readingEscaped => exact ⟨appendEscaped g s, feedByte_escaped hp hd g, rfl, hp, .inr rfl, rfl⟩

/-- Settles O55: after the guard byte no escape is pending, so the marker begins a frame. -/
theorem guardByteResynchronises : Obligations.GuardByteResynchronises := by
  intro s g _ hp hd hg
  obtain ⟨u, hu, hconfig, hup, hud, htrace⟩ := feedByte_data ⟨hp, hd⟩ hg
  have haccepts : u.Accepts := ⟨hup, by obtain hud | hud := hud <;> simp [hud]⟩
  refine ⟨beginFrame u, ?_, hup, rfl, rfl, rfl, htrace⟩
  rw [feedAll_cons_of_accepts ⟨hp, hd⟩, hu, andThen_next, feedAll_cons_of_accepts haccepts, ← hconfig,
    feedByte_start hup hud, andThen_next, feedAll_nil]

/-! ### Runs that are over and runs that hang (70_reset_and_hazards.md R238, R243) -/

/-- What holds of the idle edge and of every edge to come holds of the next edge (log entry 3). -/
theorem nextEdge_of_forall {s : State} {Q : Edge → Prop} (hidle : Q Edge.idle) (h : ∀ e ∈ s.edges, Q e) :
    Q (nextEdge s) := by
  cases hedges : s.edges with
  | nil => simpa [nextEdge, hedges] using hidle
  | cons e rest => exact nextEdge_of_cons hedges ▸ h e (by simp [hedges])

theorem not_bytesToCome_iff {s : State} : ¬ s.BytesToCome ↔ ∀ e ∈ s.edges, e.rx = none := by
  simp

/-- Without a dispatch, and with no byte offered or the port closed, an edge without reset and without a configuration word
uses up its inputs and records its sample. -/
theorem step_of_quiet {s : State} {e : Edge} (hlegal : s.config.Legal) (he : nextEdge s = e) (hrst : e.rst = false)
    (hcfg : e.cfg = none) (hd : s.dst ≠ .done) (hrx : e.rx = none ∨ ¬ s.Accepts) :
    step s = .next (afterSample e s) := by
  have hnone : ¬ (afterSample e s).InDispatch := fun h => hd h.2
  have hbyte : execAll (rxOps (afterSample e s) e.rx) (afterSample e s) = .next (afterSample e s) := by
    cases hb : e.rx with
    | none => rfl
    | some b =>
      have hclosed : ¬ s.Accepts := hrx.resolve_left (by simp [hb])
      rw [execAll_rxOps_some, feedByte_of_closed (s := afterSample e s) (.inr fun hp => hclosed ⟨hp, hd⟩)]
  rw [step_of_run hlegal he hrst, handlerOps_of_none hnone, hcfg, execAll_append, hbyte]
  rfl

/-- A run each of whose edges uses up its inputs and records its sample at most changes nothing else. -/
theorem runFor_of_inert {P : State → Prop}
    (hstep : ∀ u, P u → step u = .next (afterSample (nextEdge u) u) ∧ P (afterSample (nextEdge u) u)) {s : State}
    (hs : P s) (n : Nat) :
    ∃ t, runFor n s = .next t ∧ P t ∧ { t with edges := s.edges, samples := s.samples, draws := s.draws } = s := by
  induction n generalizing s with
  | zero => exact ⟨s, rfl, hs, rfl⟩
  | succ n ih =>
    obtain ⟨hedge, hkept⟩ := hstep s hs
    obtain ⟨t, hrun, ht, hframe⟩ := ih hkept
    refine ⟨t, by rw [runFor_succ, hedge, andThen_next, hrun], ht, ?_⟩
    exact congrArg (fun u : State => { u with edges := s.edges, samples := s.samples, draws := s.draws }) hframe

/-- The observation holds nothing of the coming inputs, the reader's samples and the draw counter. -/
theorem observe_of_frame {s t : State} {edges : List Edge} {samples : List StatusSample} {draws : Nat}
    (h : { t with edges := edges, samples := samples, draws := draws } = s) : observe t = observe s := by
  rw [← h]
  rfl

/-- A run that waits for a `DACK` is not quiescent (70_reset_and_hazards.md R243). -/
theorem not_quiescent_of_awaitsDack {s : State} (h : s.AwaitsDack) : ¬ s.Quiescent := by
  obtain ⟨⟨-, hdone⟩, -⟩ := h
  exact fun ⟨hopen, _⟩ => hopen hdone

/-- A run that is over as far as the byte source goes, with no reset and no configuration word to come. -/
def RunIsOver (s : State) : Prop := s.config.Legal ∧ s.Quiescent ∧ ∀ e ∈ s.edges, e.rst = false ∧ e.cfg = none

theorem runIsOver_step {s : State} (h : RunIsOver s) :
    step s = .next (afterSample (nextEdge s) s) ∧ RunIsOver (afterSample (nextEdge s) s) := by
  obtain ⟨hlegal, ⟨hd, hquiet⟩, hedges⟩ := h
  obtain ⟨hrst, hcfg⟩ := nextEdge_of_forall (Q := fun e => e.rst = false ∧ e.cfg = none) ⟨rfl, rfl⟩ hedges
  have hrx : (nextEdge s).rx = none ∨ ¬ s.Accepts :=
    hquiet.imp_left fun h => nextEdge_of_forall (Q := fun e => e.rx = none) rfl (not_bytesToCome_iff.mp h)
  have hquiet' : ¬ (afterSample (nextEdge s) s).BytesToCome ∨ ¬ s.Accepts :=
    hquiet.imp_left fun h => not_bytesToCome_iff.mpr fun e he => not_bytesToCome_iff.mp h e (List.mem_of_mem_tail he)
  exact ⟨step_of_quiet hlegal rfl hrst hcfg hd hrx, hlegal, ⟨hd, hquiet'⟩,
    fun e he => hedges e (List.mem_of_mem_tail he)⟩

/-- A dispatch for an external handler that never answers, with no reset to come. -/
def RunHangs (s : State) : Prop := s.config.Legal ∧ s.AwaitsDack ∧ ∀ e ∈ s.edges, e.rst = false ∧ e.dspReady = false

theorem runHangs_step {s : State} (h : RunHangs s) :
    step s = .next (afterSample (nextEdge s) s) ∧ RunHangs (afterSample (nextEdge s) s) := by
  obtain ⟨hlegal, ⟨hd, ha⟩, hedges⟩ := h
  obtain ⟨hrst, hready⟩ := nextEdge_of_forall (Q := fun e => e.rst = false ∧ e.dspReady = false) ⟨rfl, rfl⟩ hedges
  exact ⟨unacknowledgedDispatchWaits s _ hlegal rfl hrst hready hd ha, hlegal, ⟨hd, ha⟩,
    fun e he => hedges e (List.mem_of_mem_tail he)⟩

/-- Settles O59: a run that is over and one that hangs stay so at every edge, which changes only what is not
observed. -/
theorem quiescentAndHangingRunsKeepTheirObservation : Obligations.QuiescentAndHangingRunsKeepTheirObservation := by
  refine fun s n hlegal => ⟨fun hquiescent hedges => ?_, fun hawaits hedges => ?_⟩
  · obtain ⟨t, hrun, ⟨-, ht, -⟩, hframe⟩ := runFor_of_inert (fun _ => runIsOver_step) ⟨hlegal, hquiescent, hedges⟩ n
    exact ⟨t, hrun, ht, observe_of_frame hframe, hframe⟩
  · obtain ⟨t, hrun, ⟨-, ht, -⟩, hframe⟩ := runFor_of_inert (fun _ => runHangs_step) ⟨hlegal, hawaits, hedges⟩ n
    exact ⟨t, hrun, ht, not_quiescent_of_awaitsDack ht, observe_of_frame hframe, hframe⟩

end Sys2Proof.Machine
